-- ==== Sys2Proof/Word.lean ====
section
/-! DEFINITION. The two word types of CORE: the 8-bit data byte and the 16-bit address (00_scope.md R6). -/

namespace Sys2Proof

/-- A data byte: A, X, Y and every memory cell (R6). -/
abbrev Byte := BitVec 8

/-- A 16-bit address or word: PC, SP and every memory address (R6). -/
abbrev Addr := BitVec 16

end Sys2Proof
end

