-- ==== Sys2Proof/Config.lean ====
section
/-! DEFINITION. What an implementation of CORE fixes: the 14 operations of the Instruction Table, and the four
named parameters of 00_scope.md R7 as plain data. The values the spec takes by default stand in
Decode.lean (OPCODE_OF) and Machine/Params.lean (the other three). -/

namespace Sys2Proof

/-- The 14 operations that have a handler (30_encoding.md R62, R73). -/
inductive Operation where
  | ldaImm | ldaZp | ldaZpX
  | ldxImm | ldxZp
  | ldyImm | ldyZp
  | lsrAcc | lsrZp
  | oraImm | oraZp
  | pha | jsrAbs | nop
  deriving DecidableEq, Repr

/-- The operations in the order of R62's table. -/
def Operation.all : List Operation :=
  [.ldaImm, .ldaZp, .ldaZpX, .ldxImm, .ldxZp, .ldyImm, .ldyZp,
   .lsrAcc, .lsrZp, .oraImm, .oraZp, .pha, .jsrAbs, .nop]

/-- `OPCODE_OF` (R7, R62): the opcode byte of each operation. -/
structure OpcodeMap where
  ldaImm : Byte
  ldaZp  : Byte
  ldaZpX : Byte
  ldxImm : Byte
  ldxZp  : Byte
  ldyImm : Byte
  ldyZp  : Byte
  lsrAcc : Byte
  lsrZp  : Byte
  oraImm : Byte
  oraZp  : Byte
  pha    : Byte
  jsrAbs : Byte
  nop    : Byte
  deriving DecidableEq, Repr

/-- The opcode byte of an operation. -/
def OpcodeMap.code (m : OpcodeMap) : Operation → Byte
  | .ldaImm => m.ldaImm
  | .ldaZp  => m.ldaZp
  | .ldaZpX => m.ldaZpX
  | .ldxImm => m.ldxImm
  | .ldxZp  => m.ldxZp
  | .ldyImm => m.ldyImm
  | .ldyZp  => m.ldyZp
  | .lsrAcc => m.lsrAcc
  | .lsrZp  => m.lsrZp
  | .oraImm => m.oraImm
  | .oraZp  => m.oraZp
  | .pha    => m.pha
  | .jsrAbs => m.jsrAbs
  | .nop    => m.nop

/-- R62: "All 14 values are distinct". -/
abbrev OpcodeMap.Distinct (m : OpcodeMap) : Prop :=
  (Operation.all.map m.code).Nodup

/-- `UNHANDLED_POLICY` (R7): what the Engine does after an unhandled opcode (R84, R91). -/
inductive UnhandledPolicy where
  | continueRun
  | halt
  deriving DecidableEq, Repr

/-- `WORD_WRITE_TOP` (R7): what a word write at 0xFFFF does with its second byte (R44). -/
inductive WordWriteTop where
  | fault
  | wrap
  deriving DecidableEq, Repr

/-- The parameters of R7. -/
structure Config where
  /-- `OPCODE_OF` -/
  opcodes : OpcodeMap
  /-- `UNHANDLED_POLICY` -/
  unhandledPolicy : UnhandledPolicy
  /-- `WORD_WRITE_TOP` -/
  wordWriteTop : WordWriteTop
  /-- `BYTE_WRITE_COST` -/
  byteWriteCost : Nat
  deriving DecidableEq, Repr

end Sys2Proof
end

