-- ==== Sys2Proof/Syntax.lean ====
section
/-! DEFINITION. The instructions of CORE as syntax: one constructor per row of spec/opcode_table.json, the row
`(unhandled)` among them, and what each constructor's format is (30_encoding.md R60). -/

namespace Sys2Proof

/-- An instruction with its operands (R60, R62). `unhandled op` is the row for every opcode byte that
has no handler (R69); it carries the opcode, since the Engine reports it (40_engine.md R84). -/
inductive Instr where
  /-- LDA # (R101) -/
  | ldaImm (imm : Byte)
  /-- LDA zero page (R102) -/
  | ldaZp (zz : Byte)
  /-- LDA zero page,X (R103) -/
  | ldaZpX (zz : Byte)
  /-- LDX # (R104) -/
  | ldxImm (imm : Byte)
  /-- LDX zero page (R105) -/
  | ldxZp (zz : Byte)
  /-- LDY # (R106) -/
  | ldyImm (imm : Byte)
  /-- LDY zero page (R107) -/
  | ldyZp (zz : Byte)
  /-- LSR A (R120) -/
  | lsrAcc
  /-- LSR zero page (R121) -/
  | lsrZp (zz : Byte)
  /-- ORA # (R122) -/
  | oraImm (imm : Byte)
  /-- ORA zero page (R123) -/
  | oraZp (zz : Byte)
  /-- PHA (R141) -/
  | pha
  /-- JSR absolute (R142) -/
  | jsrAbs (target : Addr)
  /-- NOP (R143) -/
  | nop
  /-- any opcode byte without a handler (R69, R84) -/
  | unhandled (op : Byte)
  deriving DecidableEq, Repr

/-- The three instruction formats of R60. -/
inductive Format where
  /-- no operand, 1 byte -/
  | f1
  /-- byte operand, 2 bytes -/
  | f2
  /-- word operand, low byte first, 3 bytes -/
  | f3
  deriving DecidableEq, Repr

/-- How many operand bytes follow the opcode (R60). -/
def Format.operandBytes : Format → Nat
  | .f1 => 0
  | .f2 => 1
  | .f3 => 2

/-- The format column of R62. -/
def Operation.format : Operation → Format
  | .ldaImm | .ldaZp | .ldaZpX | .ldxImm | .ldxZp | .ldyImm | .ldyZp => .f2
  | .lsrAcc => .f1
  | .lsrZp | .oraImm | .oraZp => .f2
  | .pha => .f1
  | .jsrAbs => .f3
  | .nop => .f1

/-- An instruction's length in bytes (R60, R61, R70). -/
def Instr.length : Instr → Nat
  | .ldaImm _ | .ldaZp _ | .ldaZpX _ | .ldxImm _ | .ldxZp _ | .ldyImm _ | .ldyZp _ => 2
  | .lsrAcc => 1
  | .lsrZp _ | .oraImm _ | .oraZp _ => 2
  | .pha => 1
  | .jsrAbs _ => 3
  | .nop => 1
  | .unhandled _ => 1

/-- Why a list of bytes holds no whole instruction. The decoder rejects nothing else: R73's decode is total
over all 256 opcode values, and the Engine's fetch never lacks a byte. Both rejections are the model's own
(DESIGN CHOICE, notes/assumptions/17.md). -/
inductive DecodeError where
  /-- there is not even an opcode byte -/
  | noOpcode
  /-- the opcode's format asks for more operand bytes than there are -/
  | operandMissing (op : Byte)
  deriving DecidableEq, Repr

end Sys2Proof
end

