-- ==== Sys2Proof/WellFormed.lean ====
section
/-! DEFINITION. Which instruction terms have an encoding under an opcode map. Operands are bit vectors of their
field's width, so the only check is that `unhandled` does not carry a handled opcode (30_encoding.md R69). -/

namespace Sys2Proof

/-- The term is the meaning of some bytes under the opcode map: `unhandled op` only for an opcode
other than the 14 of the map (R69). -/
def Instr.wf (m : OpcodeMap) : Instr → Bool
  | .ldaImm _ | .ldaZp _ | .ldaZpX _ => true
  | .ldxImm _ | .ldxZp _ | .ldyImm _ | .ldyZp _ => true
  | .lsrAcc | .lsrZp _ | .oraImm _ | .oraZp _ => true
  | .pha | .jsrAbs _ | .nop => true
  | .unhandled op => Operation.all.all fun o => m.code o != op

end Sys2Proof
end

