-- ==== Sys2Proof/Decode.lean ====
section
/-! DEFINITION. The Instruction Table (30_encoding.md R62, R73), the decoder over any list of bytes, the encoder
written from the same formats (R60), and the byte-order helpers both use (20_memory.md R49). -/

namespace Sys2Proof

/-- The 16-bit value with `hi` in bits 15..8 and `lo` in bits 7..0: `hi ++ lo` (R9, R49). -/
def wordOf (hi lo : Byte) : Addr := hi ++ lo

/-- `v[7:0]` (R9). -/
def lowByte (v : Addr) : Byte := v.extractLsb' 0 8

/-- `v[15:8]` (R9). -/
def highByte (v : Addr) : Byte := v.extractLsb' 8 8

/-- The default `OPCODE_OF`: the values of R62. They come from general knowledge and not from the
source (PRESUMED by the spec itself, D1; notes/assumptions/1.md). -/
def OpcodeMap.mos6502 : OpcodeMap where
  ldaImm := 0xA9
  ldaZp  := 0xA5
  ldaZpX := 0xB5
  ldxImm := 0xA2
  ldxZp  := 0xA6
  ldyImm := 0xA0
  ldyZp  := 0xA4
  lsrAcc := 0x4A
  lsrZp  := 0x46
  oraImm := 0x09
  oraZp  := 0x05
  pha    := 0x48
  jsrAbs := 0x20
  nop    := 0xEA

/-- The Instruction Table: the handler of an opcode byte, or none where it is unhandled (R62, R69, R73).
With a map whose values are not distinct the first operation of R62's order is found
(DESIGN CHOICE, notes/assumptions/1.md). -/
def OpcodeMap.lookup (m : OpcodeMap) (op : Byte) : Option Operation :=
  Operation.all.find? fun o => m.code o == op

/-- The instruction whose opcode byte is `op` and whose following two bytes are `b1` and `b2`; a format
shorter than three bytes ignores the rest (R60, R61, R73). -/
def OpcodeMap.assemble (m : OpcodeMap) (op b1 b2 : Byte) : Instr :=
  match m.lookup op with
  | some .ldaImm => .ldaImm b1
  | some .ldaZp  => .ldaZp b1
  | some .ldaZpX => .ldaZpX b1
  | some .ldxImm => .ldxImm b1
  | some .ldxZp  => .ldxZp b1
  | some .ldyImm => .ldyImm b1
  | some .ldyZp  => .ldyZp b1
  | some .lsrAcc => .lsrAcc
  | some .lsrZp  => .lsrZp b1
  | some .oraImm => .oraImm b1
  | some .oraZp  => .oraZp b1
  | some .pha    => .pha
  | some .jsrAbs => .jsrAbs (wordOf b2 b1)
  | some .nop    => .nop
  | none         => .unhandled op

/-- How many operand bytes the opcode byte asks for: its format's, or none where it is unhandled (R61, R70). -/
def OpcodeMap.operandBytes (m : OpcodeMap) (op : Byte) : Nat :=
  match m.lookup op with
  | some o => o.format.operandBytes
  | none => 0

/-- Decode the instruction at the head of a list of bytes, with the bytes after it. Total: a list that is
too short is rejected by name, and every opcode byte has an entry (R73). -/
def decode (m : OpcodeMap) : List Byte → Except DecodeError (Instr × List Byte)
  | [] => .error .noOpcode
  | op :: rest =>
    if rest.length < m.operandBytes op then
      .error (.operandMissing op)
    else
      .ok (m.assemble op (rest.getD 0 0) (rest.getD 1 0), rest.drop (m.operandBytes op))

/-- The bytes of an instruction, from the formats of R60 and the map's opcode values (R62). -/
def encode (m : OpcodeMap) : Instr → List Byte
  | .ldaImm imm => [m.ldaImm, imm]
  | .ldaZp zz => [m.ldaZp, zz]
  | .ldaZpX zz => [m.ldaZpX, zz]
  | .ldxImm imm => [m.ldxImm, imm]
  | .ldxZp zz => [m.ldxZp, zz]
  | .ldyImm imm => [m.ldyImm, imm]
  | .ldyZp zz => [m.ldyZp, zz]
  | .lsrAcc => [m.lsrAcc]
  | .lsrZp zz => [m.lsrZp, zz]
  | .oraImm imm => [m.oraImm, imm]
  | .oraZp zz => [m.oraZp, zz]
  | .pha => [m.pha]
  | .jsrAbs target => [m.jsrAbs, lowByte target, highByte target]
  | .nop => [m.nop]
  | .unhandled op => [op]

/-- The three bytes of a word numbered as spec/opcode_table.json numbers it: bit 0 is the least significant
bit of the first byte, and the bits from `nbits` on are zero. -/
def tableWordBytes (nbits w : Nat) : List Byte :=
  let v := w % 2 ^ nbits
  [BitVec.ofNat 8 v, BitVec.ofNat 8 (v / 2 ^ 8), BitVec.ofNat 8 (v / 2 ^ 16)]

/-- The instruction the decoder reads from a word of the opcode table, under the default `OPCODE_OF`. -/
def decodeTableWord (nbits w : Nat) : Option Instr :=
  match decode OpcodeMap.mos6502 (tableWordBytes nbits w) with
  | .ok (i, _) => some i
  | .error _ => none

end Sys2Proof
end

