-- ==== Sys2Proof/Machine/Params.lean ====
section
/-! DEFINITION. The values the spec takes by default for the parameters of 00_scope.md R7. -/

namespace Sys2Proof

/-- R7's four defaults: the opcode values of R62, `continue`, `fault` and 0 (D1, D2, D3, D7). -/
def Config.default : Config where
  opcodes := OpcodeMap.mos6502
  unhandledPolicy := .continueRun
  wordWriteTop := .fault
  byteWriteCost := 0

end Sys2Proof
end

