-- ==== Sys2Proof/Machine/State.lean ====
section
/-! DEFINITION. CORE's state as plain data (10_state.md R20 to R39), the ways it stops, and the state after reset. -/

namespace Sys2Proof.Machine

/-- The two error kinds of 60_exceptions.md R160. One that has happened stands in the state's latch; a step
in a state with a latched fault answers it and does no work (40_engine.md R80). -/
inductive Fault where
  /-- R161: an address outside [0, 65535] inside `execute`. Latched by JSR's word write at 0xFFFF; answered by
  every later step. Safe: the spec calls for the stop (R165). -/
  | addressOutOfRange (addr : Nat) (op : Byte) (opAddr : Addr)
  /-- R91: an unhandled opcode under `UNHANDLED_POLICY = halt`. Latched by the unhandled path; answered by
  every later step. Safe: the spec calls for the stop. -/
  | unhandledOpcodeHalt (op : Byte) (opAddr : Addr)
  deriving DecidableEq, Repr

/-- Why a step or a host call has no meaning. -/
inductive Refusal where
  /-- An instruction without a meaning, by its mnemonic: raised by exec's arm. Safe. No arm raises it now. -/
  | notModelled (mnemonic : String)
  /-- R36: `execute` or a register or flag accessor before the first reset. Raised by the step's first check and
  by the accessors. Safe: the spec asks for the refusal. -/
  | notReset
  deriving DecidableEq, Repr

/-- The seven flags, each one bit (R27). -/
structure Flags where
  /-- Carry (R28) -/
  c : Bool
  /-- Zero (R29) -/
  z : Bool
  /-- Interrupt-disable (R30) -/
  i : Bool
  /-- Decimal (R30) -/
  d : Bool
  /-- Break (R30) -/
  b : Bool
  /-- Overflow (R30) -/
  v : Bool
  /-- Negative (R29) -/
  n : Bool
  deriving DecidableEq, Repr

/-- Every flag 0, as reset leaves them (R39). -/
def Flags.clear : Flags :=
  { c := false, z := false, i := false, d := false, b := false, v := false, n := false }

/-- Memory as the cells that differ from the value an unlisted address reads as, addresses strictly rising.
The address space is 0 to 65535 (20_memory.md R40). -/
abbrev Memory := List Host.Cell

/-- What an address with no cell reads as: 0, the value of every cell at creation and after reset
(R39, R40, R45). -/
def Memory.unlisted : Byte := 0

/-- The canonical form from a lowest allowed address on: rising addresses below 65536, no cell that holds
the unlisted value. -/
def Memory.wfFrom : Nat → Memory → Bool
  | _, [] => true
  | low, (a, v) :: rest =>
    decide (low ≤ a) && decide (a < 65536) && v != Memory.unlisted && Memory.wfFrom (a + 1) rest

/-- The canonical form of a memory. -/
def Memory.wf (m : Memory) : Bool := Memory.wfFrom 0 m

/-- The registers and flags an observer event carries (40_engine.md R86). -/
structure Snapshot where
  a : Byte
  x : Byte
  y : Byte
  pc : Addr
  sp : Addr
  flags : Flags
  deriving DecidableEq, Repr

/-- The events of `execute` (R84, R86). The memory a `Retired` event carries by reference is the state's own
(notes/assumptions/8.md). -/
inductive Event where
  /-- `Retired(op, opAddr, regs, flags, budget)` (R86) -/
  | retired (op : Byte) (opAddr : Addr) (regs : Snapshot) (budget : Int)
  /-- `UnhandledOpcode(op, opAddr)` (R84, R162) -/
  | unhandledOpcode (op : Byte) (opAddr : Addr)
  deriving DecidableEq, Repr

/-- CORE's state (R20), with what lives inside one `execute` call (R38, R87) and the machine's parameters (R7). -/
structure State where
  /-- Accumulator (R21) -/
  a : Byte
  /-- Index register X (R22) -/
  x : Byte
  /-- Index register Y (R23) -/
  y : Byte
  /-- Program counter (R24) -/
  pc : Addr
  /-- Stack pointer (R25) -/
  sp : Addr
  /-- The seven flags (R27) -/
  flags : Flags
  /-- Memory (R40) -/
  mem : Memory
  /-- Fault latch (R35) -/
  fault : Option Fault
  /-- Reset-done flag (R36) -/
  resetDone : Bool
  /-- The cycle-budget counter of the `execute` call in progress (R8, R38, R80). At 0 or below no call is in
  progress: the loop of R81 has ended (notes/assumptions/6.md). -/
  budget : Int
  /-- The events of the call, oldest first (R87). Output only. -/
  events : List Event
  /-- The machine's parameters (R7): the model's own field, which no step writes (notes/assumptions/2.md). -/
  config : Config
  deriving DecidableEq, Repr

/-- The state right after reset (R39, R180). `budget` and `events` belong to a call, and reset starts none:
0 and no event (DESIGN CHOICE, notes/assumptions/6.md and 8.md). The parameters are R7's defaults. -/
def State.reset : State :=
  { a := 0, x := 0, y := 0, pc := 0xFFFC, sp := 0x0100, flags := Flags.clear, mem := [],
    fault := none, resetDone := true, budget := 0, events := [], config := Config.default }

/-- How the body of a handler ends: with all its primitives done, or with one that raised AddressOutOfRange. In
both cases the state is the one after the last completed primitive (R165). -/
inductive Ran where
  | done (s : State)
  | raised (addr : Nat) (s : State)
  deriving DecidableEq, Repr

/-- What a host call answers instead of a result. -/
inductive HostError where
  /-- R173: a load outside the address space, an empty one at an address outside it too, with its first bad address.
  The state is untouched. -/
  | addressOutOfRange (addr : Int)
  /-- R36: a call before the first reset. -/
  | refused (r : Refusal)
  deriving DecidableEq, Repr

/-- The status `execute` returns (R87). -/
inductive Status where
  | exhausted
  | faulted (f : Fault)
  deriving DecidableEq, Repr

/-- What `execute` returns (R87), with the state it leaves. -/
structure ExecuteResult where
  state : State
  budget : Int
  status : Status
  events : List Event
  deriving DecidableEq, Repr

end Sys2Proof.Machine
end

