-- ==== Sys2Proof/Machine/Ops.lean ====
section
/-! DEFINITION. The named operations over memory and registers: the memory list, the setters, the primitives of
20_memory.md R42 to R48, the events, taking a fault (60_exceptions.md R165) and the frame every handler runs in
(40_engine.md R82 to R87). -/

namespace Sys2Proof.Machine

/-- The byte at an address of the memory list. -/
def Memory.read : Memory → Nat → Byte
  | [], _ => Memory.unlisted
  | (k, v) :: rest, a => if a = k then v else Memory.read rest a

/-- Put a cell at the head of a list whose addresses lie above it, leaving it out where it would hold the
unlisted value. -/
def Memory.consCell (a : Nat) (v : Byte) (rest : Memory) : Memory :=
  if v = Memory.unlisted then rest else (a, v) :: rest

/-- Write the byte at an address, keeping the canonical form. -/
def Memory.write : Memory → Nat → Byte → Memory
  | [], a, v => Memory.consCell a v []
  | (k, w) :: rest, a, v =>
    if a < k then Memory.consCell a v ((k, w) :: rest)
    else if a = k then Memory.consCell a v rest
    else (k, w) :: Memory.write rest a v

/-- Write consecutive bytes from an address on. -/
def Memory.writeAll : Memory → Nat → List Byte → Memory
  | m, _, [] => m
  | m, a, v :: rest => Memory.writeAll (m.write a v) (a + 1) rest

def State.setA (v : Byte) (s : State) : State := { s with a := v }
def State.setX (v : Byte) (s : State) : State := { s with x := v }
def State.setY (v : Byte) (s : State) : State := { s with y := v }
def State.setPc (v : Addr) (s : State) : State := { s with pc := v }
def State.setSp (v : Addr) (s : State) : State := { s with sp := v }
def State.setFlags (f : Flags) (s : State) : State := { s with flags := f }
def State.setMem (m : Memory) (s : State) : State := { s with mem := m }

/-- `charge(n)` (R10). -/
def State.charge (n : Nat) (s : State) : State := { s with budget := s.budget - n }

/-- Add an event at the end of the call's list (R87). -/
def State.emit (e : Event) (s : State) : State := { s with events := s.events ++ [e] }

/-- Set the fault latch (R35). -/
def State.latch (f : Fault) (s : State) : State := { s with fault := some f }

/-- `MemRead(addr, 1)` (R42). -/
def memRead (addr : Addr) (s : State) : Byte := s.mem.read addr.toNat

/-- `MemWrite(addr, 1, v)` without its charge. -/
def setByte (addr : Addr) (v : Byte) (s : State) : State := s.setMem (s.mem.write addr.toNat v)

/-- `MemWrite(addr, 1, v)` (R43): the write, and `BYTE_WRITE_COST` units. -/
def memWrite (addr : Addr) (v : Byte) (s : State) : State :=
  (setByte addr v s).charge s.config.byteWriteCost

/-- `MemWriteWord(addr, v)` (R44): low byte at `addr`, high byte after it, 2 units. At 0xFFFF it raises
AddressOutOfRange(0x10000) with no effect, or under `wrap` puts the high byte at 0x0000. -/
def memWriteWord (addr v : Addr) (s : State) : Ran :=
  if addr = 0xFFFF then
    match s.config.wordWriteTop with
    | .fault => .raised 0x10000 s
    | .wrap => .done ((setByte 0 (highByte v) (setByte 0xFFFF (lowByte v) s)).charge 2)
  else
    .done ((setByte (addr + 1) (highByte v) (setByte addr (lowByte v) s)).charge 2)

/-- `fetchByte()` (R46): the byte at PC and the state after it; PC + 1 wraps, 1 unit. -/
def fetchByte (s : State) : Byte × State :=
  (memRead s.pc s, (s.setPc (s.pc + 1)).charge 1)

/-- `fetchWord()` (R47): the little-endian word at PC and the state after it; PC + 2 wraps, 2 units. -/
def fetchWord (s : State) : Addr × State :=
  (wordOf (memRead (s.pc + 1) s) (memRead s.pc s), (s.setPc (s.pc + 2)).charge 2)

/-- `readByte(addr)` (R48): the byte and the state after it; 1 unit, PC stays. -/
def readByte (addr : Addr) (s : State) : Byte × State :=
  (memRead addr s, s.charge 1)

/-- The registers and flags as an event carries them (R86). -/
def State.snapshot (s : State) : Snapshot :=
  { a := s.a, x := s.x, y := s.y, pc := s.pc, sp := s.sp, flags := s.flags }

/-- Retire an opcode: emit `Retired(op, opAddr, regs, flags, budget)` (R86). -/
def retire (op : Byte) (opAddr : Addr) (s : State) : State :=
  s.emit (.retired op opAddr s.snapshot s.budget)

/-- TAKING A FAULT (R165): an AddressOutOfRange raised by the instruction at `opAddr` is latched with its
address and opcode; nothing else changes, no register is saved, no handler is entered, and no `Retired`
event is emitted. There is no return from it: only the host's reset clears the latch (R166). -/
def takeAddressFault (addr : Nat) (op : Byte) (opAddr : Addr) (s : State) : State :=
  s.latch (.addressOutOfRange addr op opAddr)

/-- Go on after a primitive that may raise (R165: a raise ends the instruction). -/
def Ran.andThen (r : Ran) (f : State → State) : Ran :=
  match r with
  | .done s => .done (f s)
  | .raised addr s => .raised addr s

/-- One iteration of the Engine's loop around a handler's body (R82, R83, R85, R86, R165): the opcode fetch, the
body, and then the `Retired` event, or the fault's entry where a primitive raised it. -/
def handle (o : Operation) (body : State → Ran) (s : State) : Host.Outcome State Fault Refusal :=
  match body (fetchByte s).2 with
  | .done t => .next (retire (s.config.opcodes.code o) s.pc t)
  | .raised addr t => .next (takeAddressFault addr (s.config.opcodes.code o) s.pc t)

end Sys2Proof.Machine
end

