-- ==== Sys2Proof/Machine/Flags.lean ====
section
/-! DEFINITION. The flag computations (10_state.md R31, 42_shift_logic.md R120, R121) and the packed view a model may
offer for diagnostics (R33). -/

namespace Sys2Proof.Machine

/-- `setNZ(v)` on the flags (R31): Z iff v is 0, N iff bit 7 of v, its highest; the others stay. -/
def Flags.withNZ (v : Byte) (f : Flags) : Flags :=
  { f with z := decide (v = 0), n := v.msb }

/-- LSR's flags from the byte before the shift (R120, R121): C its bit 0, Z from the result, N = 0. -/
def Flags.withShift (old : Byte) (f : Flags) : Flags :=
  { f with c := old.getLsbD 0, z := decide (old >>> 1 = 0), n := false }

/-- `setNZ(v)` (R31). -/
def setNZ (v : Byte) (s : State) : State := s.setFlags (s.flags.withNZ v)

/-- LSR's flag update (R120, R121). -/
def setShiftFlags (old : Byte) (s : State) : State := s.setFlags (s.flags.withShift old)

/-- The flags as one byte, for diagnostics only: N V - B D I Z C from bit 7 down, bit 5 as the caller likes
(R33; the layout is from general knowledge, notes/assumptions/15.md). Nothing in the machine reads it. -/
def Flags.packed (f : Flags) (bit5 : Bool) : Byte :=
  BitVec.ofBool f.n ++ BitVec.ofBool f.v ++ BitVec.ofBool bit5 ++ BitVec.ofBool f.b ++
    BitVec.ofBool f.d ++ BitVec.ofBool f.i ++ BitVec.ofBool f.z ++ BitVec.ofBool f.c

end Sys2Proof.Machine
end

