-- ==== Sys2Proof/Machine/Operands.lean ====
section
/-! DEFINITION. The addressing modes (30_encoding.md R63 to R68). The instruction carries its operand bytes, which
the decoder took from the addresses after the opcode; each mode still advances PC and charges by the fetch
primitive its rule names (notes/assumptions/9.md). -/

namespace Sys2Proof.Machine

/-- `zext_16` (R9). -/
def zext16 (v : Byte) : Addr := v.setWidth 16

/-- Immediate (R63): the state after the operand's `fetchByte`; the operand itself is the instruction's byte. -/
def immediate (s : State) : State := (fetchByte s).2

/-- Zero page (R64): the effective address and the state after the operand's `fetchByte`. -/
def zeroPage (zz : Byte) (s : State) : Addr × State := (zext16 zz, (fetchByte s).2)

/-- Zero page,X (R65): operand plus X modulo 256, and 1 further unit for the index addition. -/
def zeroPageX (zz : Byte) (s : State) : Addr × State :=
  (zext16 (zz + s.x), (fetchByte s).2.charge 1)

/-- Accumulator and implied (R66, R67): no operand byte, nothing charged. -/
def noOperand (s : State) : State := s

/-- Absolute (R68): the state after the operand's `fetchWord`; the target is the instruction's word. -/
def absolute (s : State) : State := (fetchWord s).2

/-- The data of a zero-page operand, read by `readByte` (R64). -/
def readZeroPage (zz : Byte) (s : State) : Byte × State :=
  readByte (zeroPage zz s).1 (zeroPage zz s).2

/-- The data of a zero-page,X operand, read by `readByte` (R65). -/
def readZeroPageX (zz : Byte) (s : State) : Byte × State :=
  readByte (zeroPageX zz s).1 (zeroPageX zz s).2

end Sys2Proof.Machine
end

