-- ==== Sys2Proof/Machine/Loads.lean ====
section
/-! DEFINITION. The load instructions LDA, LDX, LDY (41_loads.md R100 to R107). -/

namespace Sys2Proof.Machine

/-- `A <- v; setNZ(A)` (R101 to R103, R122, R123). -/
def loadA (v : Byte) (s : State) : State := setNZ v (s.setA v)

/-- `X <- v; setNZ(X)` (R104, R105). -/
def loadX (v : Byte) (s : State) : State := setNZ v (s.setX v)

/-- `Y <- v; setNZ(Y)` (R106, R107). -/
def loadY (v : Byte) (s : State) : State := setNZ v (s.setY v)

/-- LDA # (R101). -/
def execLdaImm (imm : Byte) (s : State) : Host.Outcome State Fault Refusal :=
  handle .ldaImm (fun s => .done (loadA imm (immediate s))) s

/-- LDA zero page (R102). -/
def execLdaZp (zz : Byte) (s : State) : Host.Outcome State Fault Refusal :=
  handle .ldaZp (fun s => .done (loadA (readZeroPage zz s).1 (readZeroPage zz s).2)) s

/-- LDA zero page,X (R103). -/
def execLdaZpX (zz : Byte) (s : State) : Host.Outcome State Fault Refusal :=
  handle .ldaZpX (fun s => .done (loadA (readZeroPageX zz s).1 (readZeroPageX zz s).2)) s

/-- LDX # (R104). -/
def execLdxImm (imm : Byte) (s : State) : Host.Outcome State Fault Refusal :=
  handle .ldxImm (fun s => .done (loadX imm (immediate s))) s

/-- LDX zero page (R105). -/
def execLdxZp (zz : Byte) (s : State) : Host.Outcome State Fault Refusal :=
  handle .ldxZp (fun s => .done (loadX (readZeroPage zz s).1 (readZeroPage zz s).2)) s

/-- LDY # (R106). -/
def execLdyImm (imm : Byte) (s : State) : Host.Outcome State Fault Refusal :=
  handle .ldyImm (fun s => .done (loadY imm (immediate s))) s

/-- LDY zero page (R107). -/
def execLdyZp (zz : Byte) (s : State) : Host.Outcome State Fault Refusal :=
  handle .ldyZp (fun s => .done (loadY (readZeroPage zz s).1 (readZeroPage zz s).2)) s

end Sys2Proof.Machine
end

