-- ==== Sys2Proof/Machine/ShiftLogic.lean ====
section
/-! DEFINITION. The shift and logic instructions LSR and ORA (42_shift_logic.md R120 to R124). -/

namespace Sys2Proof.Machine

/-- LSR A (R120). -/
def execLsrAcc (s : State) : Host.Outcome State Fault Refusal :=
  handle .lsrAcc (fun s => .done (setShiftFlags s.a ((noOperand s).setA (s.a >>> 1)))) s

/-- LSR zero page (R121): read, write back the shifted byte, then the flags. -/
def execLsrZp (zz : Byte) (s : State) : Host.Outcome State Fault Refusal :=
  handle .lsrZp (fun s =>
    .done (setShiftFlags (readZeroPage zz s).1
      (memWrite (zeroPage zz s).1 ((readZeroPage zz s).1 >>> 1) (readZeroPage zz s).2))) s

/-- ORA # (R122). -/
def execOraImm (imm : Byte) (s : State) : Host.Outcome State Fault Refusal :=
  handle .oraImm (fun s => .done (loadA (s.a ||| imm) (immediate s))) s

/-- ORA zero page (R123). -/
def execOraZp (zz : Byte) (s : State) : Host.Outcome State Fault Refusal :=
  handle .oraZp (fun s => .done (loadA (s.a ||| (readZeroPage zz s).1) (readZeroPage zz s).2)) s

end Sys2Proof.Machine
end

