-- ==== Sys2Proof/Machine/StackControl.lean ====
section
/-! DEFINITION. The stack and control instructions PHA, JSR, NOP (43_stack_control.md R140 to R145). -/

namespace Sys2Proof.Machine

/-- PHA (R141): the byte goes to the full 16-bit SP, then SP moves down by 1. -/
def execPha (s : State) : Host.Outcome State Fault Refusal :=
  handle .pha (fun s => .done ((memWrite s.sp s.a (noOperand s)).setSp (s.sp - 1))) s

/-- JSR's steps after the target's fetch (R142): the return address PC - 1 as a word at SP, SP up by 2, PC to the
target. Where the word write raises, neither SP nor PC changes any more (R165). -/
def callTarget (target : Addr) (s : State) : Ran :=
  (memWriteWord s.sp (s.pc - 1) s).andThen fun t => (t.setSp (s.sp + 2)).setPc target

/-- JSR absolute (R142). -/
def execJsrAbs (target : Addr) (s : State) : Host.Outcome State Fault Refusal :=
  handle .jsrAbs (fun s => callTarget target (absolute s)) s

/-- NOP (R143): nothing beyond the opcode fetch. -/
def execNop (s : State) : Host.Outcome State Fault Refusal :=
  handle .nop (fun s => .done (noOperand s)) s

end Sys2Proof.Machine
end

