-- ==== Sys2Proof/Machine/Unhandled.lean ====
section
/-! DEFINITION. The unhandled path of the Engine (40_engine.md R84, R91). -/

namespace Sys2Proof.Machine

/-- What the policy does after an unhandled opcode has retired: go on, or latch UnhandledOpcodeHalt (R84, R91). -/
def applyUnhandledPolicy (op : Byte) (opAddr : Addr) (s : State) : State :=
  match s.config.unhandledPolicy with
  | .continueRun => s
  | .halt => s.latch (.unhandledOpcodeHalt op opAddr)

/-- An unhandled opcode (R84): the opcode fetch, the UnhandledOpcode event, the Retired event, and then the
policy (R91). It touches no other memory, register or flag. -/
def execUnhandled (op : Byte) (s : State) : Host.Outcome State Fault Refusal :=
  .next (applyUnhandledPolicy op s.pc
    (retire op s.pc ((fetchByte s).2.emit (.unhandledOpcode op s.pc))))

end Sys2Proof.Machine
end

