-- ==== Sys2Proof/Machine/Dispatch.lean ====
section
/-! DEFINITION. One arm per instruction (40_engine.md R83). `exec i s` is the whole iteration of the loop for the instruction i at
PC, its opcode fetch (R82) included. -/

namespace Sys2Proof.Machine

def exec (i : Instr) (s : State) : Host.Outcome State Fault Refusal :=
  match i with
  | .ldaImm imm => Sys2Proof.Machine.execLdaImm imm s
  | .ldaZp zz => Sys2Proof.Machine.execLdaZp zz s
  | .ldaZpX zz => Sys2Proof.Machine.execLdaZpX zz s
  | .ldxImm imm => Sys2Proof.Machine.execLdxImm imm s
  | .ldxZp zz => Sys2Proof.Machine.execLdxZp zz s
  | .ldyImm imm => Sys2Proof.Machine.execLdyImm imm s
  | .ldyZp zz => Sys2Proof.Machine.execLdyZp zz s
  | .lsrAcc => Sys2Proof.Machine.execLsrAcc s
  | .lsrZp zz => Sys2Proof.Machine.execLsrZp zz s
  | .oraImm imm => Sys2Proof.Machine.execOraImm imm s
  | .oraZp zz => Sys2Proof.Machine.execOraZp zz s
  | .pha => Sys2Proof.Machine.execPha s
  | .jsrAbs target => Sys2Proof.Machine.execJsrAbs target s
  | .nop => Sys2Proof.Machine.execNop s
  | .unhandled op => Sys2Proof.Machine.execUnhandled op s

end Sys2Proof.Machine
end

