-- ==== Sys2Proof/Machine/Engine.lean ====
section
/-! DEFINITION. The top of the Engine's loop (40_engine.md R80 to R83): the checks, the bytes at PC, and where a word of
the opcode table is placed so that the next step runs it. -/

namespace Sys2Proof.Machine

/-- The instruction whose opcode byte is at PC, with the operand bytes its format takes from the addresses
after it, modulo 2^16 (R24, R46, R47, R82, R83). -/
def instrAt (s : State) : Instr :=
  s.config.opcodes.assemble (memRead s.pc s) (memRead (s.pc + 1) s) (memRead (s.pc + 2) s)

/-- One pass of the loop. Before the first reset it is refused (R36, R80). With a latched fault it answers the
fault and does no work (R80, R165). With a budget of 0 or below no call is in progress and CORE is idle,
its state unchanged (R81, R172). Else the instruction at PC runs to completion (R82 to R85). -/
def iterate (s : State) : Host.Outcome State Fault Refusal :=
  if s.resetDone then
    match s.fault with
    | some f => .fault f
    | none => if s.budget ≤ 0 then .next s else exec (instrAt s) s
  else
    .refused .notReset

/-- Store bytes from an address on, each address taken modulo 2^16 as a fetch takes it. -/
def placeBytes : Addr → List Byte → State → State
  | _, [], s => s
  | addr, v :: rest, s => placeBytes (addr + 1) rest (setByte addr v s)

/-- Make the engine ready to run an instruction: reset done, no fault latched, and the least budget that starts
one where there is none, as `execute(1)` gives it (R80, R81, R171). -/
def makeReady (s : State) : State :=
  { s with resetDone := true, fault := none, budget := if s.budget ≤ 0 then 1 else s.budget }

/-- The state with a word of the opcode table placed at PC and the engine ready (notes/assumptions/7.md). -/
def placeInstruction (nbits w : Nat) (s : State) : State :=
  makeReady (placeBytes s.pc (tableWordBytes nbits w) s)

end Sys2Proof.Machine
end

