-- ==== Sys2Proof/Machine/Step.lean ====
section
/-! DEFINITION. One step of CORE: one pass of the loop of `execute` (40_engine.md R81). -/

namespace Sys2Proof.Machine

/-- One pass of the loop (R80 to R87). -/
def step (s : State) : Host.Outcome State Fault Refusal := iterate s

/-- The state with the instruction of a word of the opcode table placed where the next step fetches it, and the
engine ready to run it: the word, the reset-done flag, the latch and the budget (notes/assumptions/7.md). -/
def State.withFetchWord (s : State) (nbits w : Nat) : State := placeInstruction nbits w s

end Sys2Proof.Machine
end

