-- ==== Sys2Proof/Machine/HostApi.lean ====
section
/-! DEFINITION. What the host does to CORE between calls, and the call itself (70_reset_and_hazards.md R180 to R186): power-on, reset,
load, execute, the read accessors and dump. -/

namespace Sys2Proof.Machine

/-- The state at creation (R182): memory zero, reset not done, and every register and flag unspecified, so that
they are arguments. The latch is empty (DESIGN CHOICE, notes/assumptions/11.md). -/
def State.powerOn (regs : Snapshot) (config : Config) : State :=
  { a := regs.a, x := regs.x, y := regs.y, pc := regs.pc, sp := regs.sp, flags := regs.flags, mem := [],
    fault := none, resetDone := false, budget := 0, events := [], config := config }

/-- `reset()` (R180): every element of the state at its value of R39, whatever it was; the machine's parameters are
not part of that state. -/
def applyReset (s : State) : State := { State.reset with config := s.config }

/-- The first bad address of a load, if it has one (R173): the address itself where it lies outside [0, 0xFFFF],
which holds of an empty load too (notes/assumptions/13.md), else 0x10000 where the bytes run past 0xFFFF. -/
def firstBadAddress (address : Int) (n : Nat) : Option Int :=
  if address < 0 ∨ 0xFFFF < address then some address
  else if 0x10000 < address + n then some 0x10000
  else none

/-- `load(address, bytes)` (R184): all of it, or an AddressOutOfRange to the caller with nothing written and the latch
untouched (R173). An empty load inside the address space changes nothing. -/
def load (address : Int) (bytes : List Byte) (s : State) : Except HostError State :=
  match firstBadAddress address bytes.length with
  | some bad => .error (.addressOutOfRange bad)
  | none => .ok (s.setMem (s.mem.writeAll address.toNat bytes))

/-- A call of `execute` with its counter loaded and no event yet (R80). -/
def beginCall (b0 : Int) (s : State) : State := { s with budget := b0, events := [] }

/-- Up to `n` passes of the loop (R81), ending at the first that is no next state. A pass with the budget at 0 or
below changes nothing, so that more passes than the loop needs do no harm. -/
def runCall : Nat → State → State
  | 0, s => s
  | n + 1, s =>
    match step s with
    | .next t => runCall n t
    | .fault _ => s
    | .refused _ => s

/-- The status of a call that has ended in this state (R87). -/
def statusOf (s : State) : Status :=
  match s.fault with
  | some f => .faulted f
  | none => .exhausted

/-- `execute(b0)` (R80 to R91). Every iteration charges at least 1 unit, so `b0` passes are enough (R90). -/
def execute (b0 : Int) (s : State) : Except HostError ExecuteResult :=
  if s.resetDone then
    match s.fault with
    | some f => .ok { state := s, budget := b0, status := .faulted f, events := [] }
    | none =>
      let t := runCall b0.toNat (beginCall b0 s)
      .ok { state := t, budget := t.budget, status := statusOf t, events := t.events }
  else
    .error (.refused .notReset)

/-- A register or flag accessor (R186), refused before the first reset (R36). -/
def accessor {α : Type} (field : State → α) (s : State) : Except HostError α :=
  if s.resetDone then .ok (field s) else .error (.refused .notReset)

def readA (s : State) : Except HostError Byte := accessor State.a s
def readX (s : State) : Except HostError Byte := accessor State.x s
def readY (s : State) : Except HostError Byte := accessor State.y s
def readPc (s : State) : Except HostError Addr := accessor State.pc s
def readSp (s : State) : Except HostError Addr := accessor State.sp s
def readFlags (s : State) : Except HostError Flags := accessor State.flags s

/-- The memory accessor (R186): memory is zero even before the first reset (R182), so it is never refused. -/
def readCell (addr : Addr) (s : State) : Byte := memRead addr s

/-- `dump()` (R59): the non-zero cells with address and value. -/
def dump (s : State) : List Host.Cell := s.mem

end Sys2Proof.Machine
end

