-- ==== Sys2Proof/Safety.lean ====
section
/-! DEFINITION. The terms the claims are stated in: when the Engine runs an instruction, the bytes it then reads, the cost
table of 40_engine.md R88, and the invariant of the machine. -/

namespace Sys2Proof.Machine

/-- The Engine dispatches an instruction (R80, R81): reset done, no latched fault, budget above 0. -/
abbrev State.Ready (s : State) : Prop :=
  s.resetDone = true ∧ s.fault = none ∧ 0 < s.budget

/-- The three bytes from PC on, modulo 2^16: at least the bytes of the instruction at PC (R60). -/
def bytesAtPc (s : State) : List Byte :=
  [memRead s.pc s, memRead (s.pc + 1) s, memRead (s.pc + 2) s]

/-- The cost table of R88, for an instruction that retires. -/
def costOf (c : Config) : Instr → Nat
  | .ldaImm _ | .ldxImm _ | .ldyImm _ | .oraImm _ => 2
  | .ldaZp _ | .ldxZp _ | .ldyZp _ | .oraZp _ => 3
  | .ldaZpX _ => 4
  | .lsrAcc => 1
  | .lsrZp _ => 3 + c.byteWriteCost
  | .pha => 1 + c.byteWriteCost
  | .jsrAbs _ => 5
  | .nop => 1
  | .unhandled _ => 1

/-- The largest cost of an instruction (R88). -/
def maxCost (c : Config) : Nat := max 5 (3 + c.byteWriteCost)

/-- A latched fault is one the machine can raise, and the state beside it is the one after the last completed
primitive (R91, R161, R165). -/
def State.LatchLegal (s : State) : Prop :=
  match s.fault with
  | none => True
  | some (.addressOutOfRange addr op opAddr) =>
    s.config.wordWriteTop = .fault ∧ addr = 0x10000 ∧ op = s.config.opcodes.jsrAbs ∧
      s.sp = 0xFFFF ∧ s.pc = opAddr + 3
  | some (.unhandledOpcodeHalt op opAddr) =>
    s.config.unhandledPolicy = .halt ∧ (Instr.unhandled op).wf s.config.opcodes = true ∧ s.pc = opAddr + 1

/-- The invariant of the machine: memory keeps its canonical form, and a latched fault is legal. -/
def State.Inv (s : State) : Prop := s.mem.wf = true ∧ s.LatchLegal

/-- An event with the registers and flags it carries changed, so that two runs can be compared but for
what they are known to differ in. -/
def Event.mapRegs (f : Snapshot → Snapshot) : Event → Event
  | .retired op opAddr regs budget => .retired op opAddr (f regs) budget
  | .unhandledOpcode op opAddr => .unhandledOpcode op opAddr

/-- A value of the state is written without being read: either both runs, which differ in it before the step, have
the same value after it, or each has kept its own. -/
abbrev WrittenOrKept {α : Type} (before before' after after' : α) : Prop :=
  after' = after ∨ (after' = before' ∧ after = before)

/-- How many opcodes a list of events says have retired (R86). -/
def retiredCount : List Event → Nat
  | [] => 0
  | .retired _ _ _ _ :: rest => retiredCount rest + 1
  | .unhandledOpcode _ _ :: rest => retiredCount rest

end Sys2Proof.Machine
end

