-- ==== Sys2Proof/Certificates/Slice0/Obligations.lean ====
section
/-! DEFINITION. The statements for the provers: what the rules of the spec say the instructions and the machine do. -/

open Sys2Proof Sys2Proof.Machine

/-! ### Encoding -/

/-- R60, R62: under any opcode map with distinct values, decoding the bytes of a well-formed instruction
gives it back, with every byte after it untouched. -/
def Obligations.DecodeOfEncodeIsTheInstruction : Prop :=
  ∀ (m : OpcodeMap) (i : Instr) (rest : List Byte), m.Distinct → i.wf m = true →
    decode m (encode m i ++ rest) = .ok (i, rest)

/-- R60, R62, R73: whatever the decoder accepts is well-formed and is the encoding of what it answers, so
no byte of an encoding is dropped or made up. -/
def Obligations.EncodeOfDecodeIsTheBytes : Prop :=
  ∀ (m : OpcodeMap) (bytes rest : List Byte) (i : Instr), decode m bytes = .ok (i, rest) →
    encode m i ++ rest = bytes ∧ i.wf m = true

/-- R60, R61, R70: the opcode byte alone determines the length, by its format, 1 for an unhandled one. That a list of
bytes that is too short is rejected by name is the model's own (notes/assumptions/17.md): R73's decode is total. -/
def Obligations.OpcodeByteAloneDeterminesLength : Prop :=
  ∀ (m : OpcodeMap) (op : Byte), ∃ n : Nat, 1 ≤ n ∧ n ≤ 3 ∧
    (m.lookup op = none → n = 1) ∧
    (∀ o, m.lookup op = some o → n = 1 + o.format.operandBytes) ∧
    ∀ rest : List Byte,
      (n ≤ rest.length + 1 → ∃ i, decode m (op :: rest) = .ok (i, rest.drop (n - 1)) ∧ i.length = n) ∧
      (rest.length + 1 < n → decode m (op :: rest) = .error (.operandMissing op))

/-- R73: the decode function over all 256 byte values, with the default opcode values, and with whatever two
bytes follow. The values are from general knowledge and not from the source (D1, notes/assumptions/1.md). -/
def Obligations.InstructionTableIsAsListed : Prop :=
  ∀ op lo hi : Byte,
    OpcodeMap.mos6502.assemble op lo hi =
      if op = 0xA9 then .ldaImm lo else if op = 0xA5 then .ldaZp lo else if op = 0xB5 then .ldaZpX lo
      else if op = 0xA2 then .ldxImm lo else if op = 0xA6 then .ldxZp lo
      else if op = 0xA0 then .ldyImm lo else if op = 0xA4 then .ldyZp lo
      else if op = 0x4A then .lsrAcc else if op = 0x46 then .lsrZp lo
      else if op = 0x09 then .oraImm lo else if op = 0x05 then .oraZp lo
      else if op = 0x48 then .pha else if op = 0x20 then .jsrAbs (hi ++ lo) else if op = 0xEA then .nop
      else .unhandled op

/-! ### Memory and the primitives -/

/-- R43: a byte write sets its cell and no other, charges BYTE_WRITE_COST and changes nothing else. -/
def Obligations.ByteWriteChangesExactlyItsCell : Prop :=
  ∀ (addr : Addr) (v : Byte) (s : State), s.mem.wf = true →
    (∀ a, memRead a (memWrite addr v s) = if a = addr then v else memRead a s) ∧
    memWrite addr v s = { s with
      mem := (memWrite addr v s).mem, budget := s.budget - s.config.byteWriteCost }

/-- R44: the word write. Below 0xFFFF it stores the low byte at its address and the high byte at the next one for
2 units; at 0xFFFF it raises AddressOutOfRange(0x10000) with nothing written and nothing charged, or under
WORD_WRITE_TOP = wrap stores the high byte at 0x0000. -/
def Obligations.WordWriteIsLittleEndianAndChecked : Prop :=
  ∀ (addr v : Addr) (s : State), s.mem.wf = true →
    (addr ≠ 0xFFFF ∨ s.config.wordWriteTop = .wrap →
      ∃ t, memWriteWord addr v s = .done t ∧
        (∀ a, memRead a t =
          if a = addr then v.setWidth 8
          else if a = addr + 1 then (v >>> 8).setWidth 8
          else memRead a s) ∧
        t = { s with mem := t.mem, budget := s.budget - 2 }) ∧
    (addr = 0xFFFF → s.config.wordWriteTop = .fault → memWriteWord addr v s = .raised 0x10000 s)

/-- R46, R47, R48: the reading primitives. PC wraps, the word's low byte is at PC, and nothing but PC and the
budget changes. -/
def Obligations.FetchAndReadPrimitives : Prop :=
  ∀ (addr : Addr) (s : State),
    fetchByte s = (memRead s.pc s, { s with pc := s.pc + 1, budget := s.budget - 1 }) ∧
    fetchWord s = (memRead (s.pc + 1) s ++ memRead s.pc s,
      { s with pc := s.pc + 2, budget := s.budget - 2 }) ∧
    readByte addr s = (memRead addr s, { s with budget := s.budget - 1 })

/-- The canonical form of R40's memory in the model: two canonical memories that read alike at all
65,536 addresses are the same data. -/
def Obligations.CanonicalMemoryIsUnique : Prop :=
  ∀ m₁ m₂ : Memory, m₁.wf = true → m₂.wf = true →
    (∀ a : Addr, m₁.read a.toNat = m₂.read a.toNat) → m₁ = m₂

/-- R59: dump enumerates the non-zero cells with address and value. -/
def Obligations.DumpListsTheNonZeroCells : Prop :=
  ∀ (s : State) (a : Nat) (v : Byte), s.mem.wf = true →
    ((a, v) ∈ dump s ↔ v ≠ 0 ∧ ∃ addr : Addr, addr.toNat = a ∧ memRead addr s = v)

/-! ### The flags -/

/-- R31: `setNZ(v)` sets Z iff v is 0 and N iff bit 7 of v is set; no other flag changes. -/
def Obligations.SetNZSetsOnlyZeroAndNegative : Prop :=
  ∀ (v : Byte) (s : State),
    setNZ v s = { s with flags := { s.flags with z := decide (v = 0), n := decide (128 ≤ v.toNat) } }

/-- R28: LSR sets C to the old bit 0 of what it shifts, no other instruction writes C, none reads it, and it resets
to 0. -/
def Obligations.CarryComesOnlyFromLsr : Prop :=
  (∀ s : State, (applyReset s).flags.c = false) ∧
  ∀ s t : State, s.Ready → step s = .next t →
    (match instrAt s with
      | .lsrAcc => t.flags.c = s.a.getLsbD 0
      | .lsrZp zz => t.flags.c = (memRead (zext16 zz) s).getLsbD 0
      | _ => t.flags.c = s.flags.c) ∧
    ∀ c : Bool, ∃ t', step { s with flags := { s.flags with c := c } } = .next t' ∧
      { t' with flags := { t'.flags with c := t.flags.c }, events := t.events } = t ∧
      (let hide := Event.mapRegs fun r => { r with flags := { r.flags with c := false } }
       t'.events.map hide = t.events.map hide) ∧
      WrittenOrKept s.flags.c c t.flags.c t'.flags.c

/-! ### The instructions: encoding under the default opcode values, result, completion and frame in one

`exec` holds the opcode fetch, so PC and the budget move by the whole instruction. `retire op opAddr t` is t with
one Retired event added (R86) and nothing else changed; the field update `{ s with … }` is the frame. -/

/-- R101, R102, R103: LDA in its three modes, from the opcode byte on. The opcode values are the default ones, from
general knowledge (R62, D1, notes/assumptions/1.md); the Retired event is R86's. -/
def Obligations.LdaLoadsTheAccumulator : Prop :=
  (∀ o : Byte, decode OpcodeMap.mos6502 [0xA9, o] = .ok (.ldaImm o, []) ∧
    decode OpcodeMap.mos6502 [0xA5, o] = .ok (.ldaZp o, []) ∧
    decode OpcodeMap.mos6502 [0xB5, o] = .ok (.ldaZpX o, [])) ∧
  ∀ (o : Byte) (s : State),
    exec (.ldaImm o) s = .next (retire s.config.opcodes.ldaImm s.pc { s with
      a := o, pc := s.pc + 2, budget := s.budget - 2,
      flags := { s.flags with z := decide (o = 0), n := o.msb } }) ∧
    (let m := memRead (o.setWidth 16) s
     exec (.ldaZp o) s = .next (retire s.config.opcodes.ldaZp s.pc { s with
      a := m, pc := s.pc + 2, budget := s.budget - 3,
      flags := { s.flags with z := decide (m = 0), n := m.msb } })) ∧
    (let m := memRead ((o + s.x).setWidth 16) s
     exec (.ldaZpX o) s = .next (retire s.config.opcodes.ldaZpX s.pc { s with
      a := m, pc := s.pc + 2, budget := s.budget - 4,
      flags := { s.flags with z := decide (m = 0), n := m.msb } }))

/-- R104, R105: LDX in its two modes. The opcode values are the default ones, from general knowledge (R62, D1,
notes/assumptions/1.md); the Retired event is R86's. -/
def Obligations.LdxLoadsIndexX : Prop :=
  (∀ o : Byte, decode OpcodeMap.mos6502 [0xA2, o] = .ok (.ldxImm o, []) ∧
    decode OpcodeMap.mos6502 [0xA6, o] = .ok (.ldxZp o, [])) ∧
  ∀ (o : Byte) (s : State),
    exec (.ldxImm o) s = .next (retire s.config.opcodes.ldxImm s.pc { s with
      x := o, pc := s.pc + 2, budget := s.budget - 2,
      flags := { s.flags with z := decide (o = 0), n := o.msb } }) ∧
    (let m := memRead (o.setWidth 16) s
     exec (.ldxZp o) s = .next (retire s.config.opcodes.ldxZp s.pc { s with
      x := m, pc := s.pc + 2, budget := s.budget - 3,
      flags := { s.flags with z := decide (m = 0), n := m.msb } }))

/-- R106, R107: LDY in its two modes. The opcode values are the default ones, from general knowledge (R62, D1,
notes/assumptions/1.md); the Retired event is R86's. -/
def Obligations.LdyLoadsIndexY : Prop :=
  (∀ o : Byte, decode OpcodeMap.mos6502 [0xA0, o] = .ok (.ldyImm o, []) ∧
    decode OpcodeMap.mos6502 [0xA4, o] = .ok (.ldyZp o, [])) ∧
  ∀ (o : Byte) (s : State),
    exec (.ldyImm o) s = .next (retire s.config.opcodes.ldyImm s.pc { s with
      y := o, pc := s.pc + 2, budget := s.budget - 2,
      flags := { s.flags with z := decide (o = 0), n := o.msb } }) ∧
    (let m := memRead (o.setWidth 16) s
     exec (.ldyZp o) s = .next (retire s.config.opcodes.ldyZp s.pc { s with
      y := m, pc := s.pc + 2, budget := s.budget - 3,
      flags := { s.flags with z := decide (m = 0), n := m.msb } }))

/-- R120: LSR A. The result is half of A, C is A's old bit 0, N is 0.
The opcode value is the default one, from general knowledge (R62, D1, notes/assumptions/1.md); the Retired event is
R86's. -/
def Obligations.LsrAccumulatorShiftsRight : Prop :=
  decode OpcodeMap.mos6502 [0x4A] = .ok (.lsrAcc, []) ∧
  ∀ s : State, ∃ t, exec .lsrAcc s = .next (retire s.config.opcodes.lsrAcc s.pc t) ∧
    t.a.toNat = s.a.toNat / 2 ∧
    t = { s with
      a := t.a, pc := s.pc + 1, budget := s.budget - 1,
      flags := { s.flags with
        c := decide (s.a.toNat % 2 = 1), z := decide (t.a = 0), n := false } }

/-- R121: LSR zero page. The byte at the zero-page address is halved, no other byte changes, and A stays.
The opcode value is the default one, from general knowledge (R62, D1, notes/assumptions/1.md); the Retired event is
R86's. -/
def Obligations.LsrZeroPageShiftsTheByte : Prop :=
  (∀ zz : Byte, decode OpcodeMap.mos6502 [0x46, zz] = .ok (.lsrZp zz, [])) ∧
  ∀ (zz : Byte) (s : State), s.mem.wf = true →
    let old := memRead (zext16 zz) s
    ∃ t r, exec (.lsrZp zz) s = .next (retire s.config.opcodes.lsrZp s.pc t) ∧
      r.toNat = old.toNat / 2 ∧
      (∀ a, memRead a t = if a = zext16 zz then r else memRead a s) ∧
      t = { s with
        mem := t.mem, pc := s.pc + 2, budget := s.budget - 3 - s.config.byteWriteCost,
        flags := { s.flags with
          c := decide (old.toNat % 2 = 1), z := decide (r = 0), n := false } }

/-- R122, R123: ORA in its two modes. The opcode values are the default ones, from general knowledge (R62, D1,
notes/assumptions/1.md); the Retired event is R86's. -/
def Obligations.OraOrsIntoTheAccumulator : Prop :=
  (∀ o : Byte, decode OpcodeMap.mos6502 [0x09, o] = .ok (.oraImm o, []) ∧
    decode OpcodeMap.mos6502 [0x05, o] = .ok (.oraZp o, [])) ∧
  ∀ (o : Byte) (s : State),
    (let r := s.a ||| o
     exec (.oraImm o) s = .next (retire s.config.opcodes.oraImm s.pc { s with
      a := r, pc := s.pc + 2, budget := s.budget - 2,
      flags := { s.flags with z := decide (r = 0), n := r.msb } })) ∧
    (let r := s.a ||| memRead (o.setWidth 16) s
     exec (.oraZp o) s = .next (retire s.config.opcodes.oraZp s.pc { s with
      a := r, pc := s.pc + 2, budget := s.budget - 3,
      flags := { s.flags with z := decide (r = 0), n := r.msb } }))

/-- R141: PHA writes A at the full 16-bit SP and moves SP down by 1, wrapping; no flag is written.
The opcode value is the default one, from general knowledge (R62, D1, notes/assumptions/1.md); the Retired event is
R86's. -/
def Obligations.PhaPushesTheAccumulator : Prop :=
  decode OpcodeMap.mos6502 [0x48] = .ok (.pha, []) ∧
  ∀ s : State, s.mem.wf = true →
    ∃ t, exec .pha s = .next (retire s.config.opcodes.pha s.pc t) ∧
      (∀ a, memRead a t = if a = s.sp then s.a else memRead a s) ∧
      t = { s with
        mem := t.mem, sp := s.sp - 1, pc := s.pc + 1,
        budget := s.budget - 1 - s.config.byteWriteCost }

/-- R142: JSR writes the address of its last byte as a little-endian word at SP, moves SP up by 2 and goes to the
target. With SP = 0xFFFF the high byte goes to 0x0000 under WORD_WRITE_TOP = wrap, and under fault nothing is
written, SP stays, PC is past the instruction, 3 units are charged and AddressOutOfRange(0x10000) is latched.
The opcode value is the default one, from general knowledge (R62, D1, notes/assumptions/1.md); the Retired event is
R86's. -/
def Obligations.JsrCallsOrTakesTheAddressFault : Prop :=
  (∀ lo hi : Byte, decode OpcodeMap.mos6502 [0x20, lo, hi] = .ok (.jsrAbs (hi ++ lo), [])) ∧
  ∀ (target : Addr) (s : State), s.mem.wf = true →
    (s.sp ≠ 0xFFFF ∨ s.config.wordWriteTop = .wrap →
      ∃ t, exec (.jsrAbs target) s = .next (retire s.config.opcodes.jsrAbs s.pc t) ∧
        (∀ a, memRead a t =
          if a = s.sp then (s.pc + 2).setWidth 8
          else if a = s.sp + 1 then ((s.pc + 2) >>> 8).setWidth 8
          else memRead a s) ∧
        t = { s with mem := t.mem, sp := s.sp + 2, pc := target, budget := s.budget - 5 }) ∧
    (s.sp = 0xFFFF → s.config.wordWriteTop = .fault →
      exec (.jsrAbs target) s = .next { s with
        pc := s.pc + 3, budget := s.budget - 3,
        fault := some (.addressOutOfRange 0x10000 s.config.opcodes.jsrAbs s.pc) })

/-- R143: NOP consumes the opcode fetch only.
The opcode value is the default one, from general knowledge (R62, D1, notes/assumptions/1.md); the Retired event is
R86's. -/
def Obligations.NopOnlyFetchesItsOpcode : Prop :=
  decode OpcodeMap.mos6502 [0xEA] = .ok (.nop, []) ∧
  ∀ s : State, exec .nop s = .next (retire s.config.opcodes.nop s.pc
    { s with pc := s.pc + 1, budget := s.budget - 1 })

/-- R84, R86, R91: an unhandled opcode reports itself, retires as 1 byte and 1 unit, and changes no register, flag or
memory; then it goes on, or under UNHANDLED_POLICY = halt latches UnhandledOpcodeHalt. -/
def Obligations.UnhandledOpcodeReportsItself : Prop :=
  ∀ (op : Byte) (s : State),
    let t := retire op s.pc { s with
      pc := s.pc + 1, budget := s.budget - 1, events := s.events ++ [.unhandledOpcode op s.pc] }
    (s.config.unhandledPolicy = .continueRun → exec (.unhandled op) s = .next t) ∧
    (s.config.unhandledPolicy = .halt →
      exec (.unhandled op) s = .next { t with fault := some (.unhandledOpcodeHalt op s.pc) })

/-! ### The Engine -/

/-- R80 to R83: where the bytes at PC decode to an instruction, a step of a ready machine is exec of it at that same
state; exec itself holds the opcode fetch, so step adds nothing around it. That the operand bytes are decoded
before the meaning runs is notes/assumptions/9.md; OperandsAreTheFetchedBytes says that it makes no difference. -/
def Obligations.StepRunsTheDecodedInstruction : Prop :=
  ∀ (s : State) (i : Instr) (rest : List Byte), s.Ready →
    decode s.config.opcodes (bytesAtPc s) = .ok (i, rest) → step s = exec i s

/-- R60, R82, R83: where the bytes at PC begin with the encoding of a well-formed instruction, that
instruction is the one a step of a ready machine runs. -/
def Obligations.StepRunsTheEncodedInstruction : Prop :=
  ∀ (s : State) (i : Instr), s.Ready → s.config.opcodes.Distinct → i.wf s.config.opcodes = true →
    encode s.config.opcodes i <+: bytesAtPc s → step s = exec i s

/-- R63 to R68: the operands the decoder puts into the instruction at PC are the bytes that the fetch
primitives of its addressing mode return after the opcode's fetch. -/
def Obligations.OperandsAreTheFetchedBytes : Prop :=
  ∀ s : State,
    let op := (fetchByte s).1
    let s₁ := (fetchByte s).2
    instrAt s = match s.config.opcodes.lookup op with
      | some .ldaImm => .ldaImm (fetchByte s₁).1
      | some .ldaZp => .ldaZp (fetchByte s₁).1
      | some .ldaZpX => .ldaZpX (fetchByte s₁).1
      | some .ldxImm => .ldxImm (fetchByte s₁).1
      | some .ldxZp => .ldxZp (fetchByte s₁).1
      | some .ldyImm => .ldyImm (fetchByte s₁).1
      | some .ldyZp => .ldyZp (fetchByte s₁).1
      | some .lsrAcc => .lsrAcc
      | some .lsrZp => .lsrZp (fetchByte s₁).1
      | some .oraImm => .oraImm (fetchByte s₁).1
      | some .oraZp => .oraZp (fetchByte s₁).1
      | some .pha => .pha
      | some .jsrAbs => .jsrAbs (fetchWord s₁).1
      | some .nop => .nop
      | none => .unhandled op

/-- How a word of the opcode table comes to run (notes/assumptions/7.md, the model's own convention): the step
after `withFetchWord` runs the instruction that the word decodes to. -/
def Obligations.PlacedWordRunsNext : Prop :=
  ∀ (s : State) (nbits w : Nat) (i : Instr), s.mem.wf = true → s.config.opcodes = OpcodeMap.mos6502 →
    decodeTableWord nbits w = some i →
    step (s.withFetchWord nbits w) = exec i (s.withFetchWord nbits w)

/-- R36, R80, R81: what the top of the loop answers when it dispatches nothing. That a machine with no budget
left answers its own unchanged state is the model's choice (notes/assumptions/6.md). -/
def Obligations.StepDispatchesOnlyWhenReady : Prop :=
  ∀ s : State,
    (s.resetDone = false → step s = .refused .notReset) ∧
    (∀ f, s.resetDone = true → s.fault = some f → step s = .fault f) ∧
    (s.resetDone = true → s.fault = none → s.budget ≤ 0 → step s = .next s)

/-- R85, R90: every instruction, once dispatched, answers a next state, however small the budget is, and charges at
least 1 unit. A JSR that takes the address fault does not complete (R85, R165 c); that its fault's entry is a next
state, with the latch set, is notes/assumptions/10.md. -/
def Obligations.EveryDispatchAnswersANextState : Prop :=
  ∀ s : State, s.Ready → ∃ t, step s = .next t ∧ t.budget + 1 ≤ s.budget

/-- R88: the cost of every instruction that retires, and the largest one. Only the JSR that takes the address
fault, which does not retire, is charged 3 units instead (R142). -/
def Obligations.BudgetIsChargedByTheCostTable : Prop :=
  (∀ (c : Config) (i : Instr), 1 ≤ costOf c i ∧ costOf c i ≤ maxCost c) ∧
  ∀ (i : Instr) (s : State), ∃ t, exec i s = .next t ∧
    t.budget = s.budget -
      (if (∃ target, i = .jsrAbs target) ∧ s.sp = 0xFFFF ∧ s.config.wordWriteTop = .fault then 3
       else (costOf s.config i : Int))

/-- R144: only JSR writes PC otherwise than by sequential advance. -/
def Obligations.OnlyJsrLeavesTheSequence : Prop :=
  ∀ s t : State, s.Ready → step s = .next t →
    match instrAt s with
    | .jsrAbs target => t.pc = if t.fault = none then target else s.pc + 3
    | i => t.pc = s.pc + BitVec.ofNat 16 i.length

/-- The W columns of R26's table, and R28 to R30: which instructions may write A, X, Y, SP, the flags and memory; a
step of any other leaves them, and no step writes I, D, B or V. -/
def Obligations.RegistersWrittenAreThoseOfTheTable : Prop :=
  ∀ s t : State, s.Ready → step s = .next t →
    (t.flags.i = s.flags.i ∧ t.flags.d = s.flags.d ∧ t.flags.b = s.flags.b ∧ t.flags.v = s.flags.v) ∧
    (match instrAt s with
      | .ldaImm _ | .ldaZp _ | .ldaZpX _ | .oraImm _ | .oraZp _ =>
        t = { s with a := t.a, pc := t.pc, budget := t.budget, events := t.events,
                     flags := { s.flags with z := t.flags.z, n := t.flags.n } }
      | .ldxImm _ | .ldxZp _ =>
        t = { s with x := t.x, pc := t.pc, budget := t.budget, events := t.events,
                     flags := { s.flags with z := t.flags.z, n := t.flags.n } }
      | .ldyImm _ | .ldyZp _ =>
        t = { s with y := t.y, pc := t.pc, budget := t.budget, events := t.events,
                     flags := { s.flags with z := t.flags.z, n := t.flags.n } }
      | .lsrAcc =>
        t = { s with a := t.a, pc := t.pc, budget := t.budget, events := t.events,
                     flags := { s.flags with c := t.flags.c, z := t.flags.z, n := t.flags.n } }
      | .lsrZp _ =>
        t = { s with mem := t.mem, pc := t.pc, budget := t.budget, events := t.events,
                     flags := { s.flags with c := t.flags.c, z := t.flags.z, n := t.flags.n } }
      | .pha =>
        t = { s with mem := t.mem, sp := t.sp, pc := t.pc, budget := t.budget, events := t.events }
      | .jsrAbs _ =>
        t = { s with mem := t.mem, sp := t.sp, pc := t.pc, budget := t.budget, events := t.events,
                     fault := t.fault }
      | .nop => t = { s with pc := t.pc, budget := t.budget, events := t.events }
      | .unhandled _ =>
        t = { s with pc := t.pc, budget := t.budget, events := t.events, fault := t.fault })

/-- R29, R32: after a load, an ORA or an LSR has retired, Z and N are those of its result byte; after any other
instruction all flags are as before. -/
def Obligations.ZeroAndNegativeFollowTheResult : Prop :=
  ∀ s t : State, s.Ready → s.mem.wf = true → step s = .next t →
    let follows := fun v : Byte => t.flags.z = decide (v = 0) ∧ t.flags.n = v.msb
    match instrAt s with
    | .ldaImm _ | .ldaZp _ | .ldaZpX _ | .lsrAcc | .oraImm _ | .oraZp _ => follows t.a
    | .ldxImm _ | .ldxZp _ => follows t.x
    | .ldyImm _ | .ldyZp _ => follows t.y
    | .lsrZp zz => follows (memRead (zext16 zz) t)
    | .pha | .jsrAbs _ | .nop | .unhandled _ => t.flags = s.flags

/-- R23, R28, R29, R30: no instruction reads Y or any flag. Two machines that differ only there take steps of one
kind to states that agree on everything else and on every event but for the Y and flags it carries; and Y and
each flag come out the same from both, as written, or as each machine had it, as kept. -/
def Obligations.YAndTheFlagsAreNeverRead : Prop :=
  ∀ (s t : State) (y : Byte) (f : Flags), step s = .next t →
    ∃ t', step { s with y := y, flags := f } = .next t' ∧
      { t' with y := t.y, flags := t.flags, events := t.events } = t ∧
      (let hide := Event.mapRegs fun r => { r with y := 0, flags := Flags.clear }
       t'.events.map hide = t.events.map hide) ∧
      WrittenOrKept s.y y t.y t'.y ∧
      WrittenOrKept s.flags.c f.c t.flags.c t'.flags.c ∧
      WrittenOrKept s.flags.z f.z t.flags.z t'.flags.z ∧
      WrittenOrKept s.flags.i f.i t.flags.i t'.flags.i ∧
      WrittenOrKept s.flags.d f.d t.flags.d t'.flags.d ∧
      WrittenOrKept s.flags.b f.b t.flags.b t'.flags.b ∧
      WrittenOrKept s.flags.v f.v t.flags.v t'.flags.v ∧
      WrittenOrKept s.flags.n f.n t.flags.n t'.flags.n

/-- R22: LDX writes X and no other instruction does; LDA zp,X reads it as its index and no other instruction does: two
machines that differ only in X take steps of any other instruction to states that agree on everything else. -/
def Obligations.OnlyLdxWritesXAndOnlyLdaZpXReadsIt : Prop :=
  ∀ s t : State, s.Ready → step s = .next t →
    (match instrAt s with
      | .ldxImm o => t.x = o
      | .ldxZp zz => t.x = memRead (zext16 zz) s
      | _ => t.x = s.x) ∧
    (∀ zz, instrAt s = .ldaZpX zz → t.a = memRead ((zz + s.x).setWidth 16) s) ∧
    ((∀ zz, instrAt s ≠ .ldaZpX zz) → ∀ x : Byte,
      ∃ t', step { s with x := x } = .next t' ∧
        { t' with x := t.x, events := t.events } = t ∧
        (let hide := Event.mapRegs fun r => { r with x := 0 }
         t'.events.map hide = t.events.map hide) ∧
        WrittenOrKept s.x x t.x t'.x)

/-- R7, R73: no step and no host call changes the machine's parameters, the Instruction Table among them. -/
def Obligations.ParametersNeverChange : Prop :=
  ∀ s t : State,
    (step s = .next t → t.config = s.config) ∧
    (∀ address bytes, load address bytes s = .ok t → t.config = s.config) ∧
    (∀ b0 r, execute b0 s = .ok r → r.state.config = s.config) ∧
    (applyReset s).config = s.config

/-- R86, R84, R165: the events of one iteration. A handled opcode that completes emits its Retired event, with the
registers, flags and budget it leaves; an unhandled one its UnhandledOpcode event first; a JSR that
takes the address fault none. -/
def Obligations.IterationEmitsItsEvents : Prop :=
  ∀ s t : State, s.Ready → step s = .next t →
    let op := memRead s.pc s
    let retired := Event.retired op s.pc
      { a := t.a, x := t.x, y := t.y, pc := t.pc, sp := t.sp, flags := t.flags } t.budget
    match instrAt s with
    | .unhandled _ => t.events = s.events ++ [.unhandledOpcode op s.pc, retired]
    | .jsrAbs _ => t.events = if t.fault = none then s.events ++ [retired] else s.events
    | _ => t.events = s.events ++ [retired]

/-- R57, R121, R141, R142: a store is seen by a later fetch of its address, with no action in between, by the very
next one among them (u is t). LSR zp: the shifted byte. PHA: the pushed byte. JSR: the return address's word
at the old SP, and its second byte by itself. -/
def Obligations.LaterFetchSeesTheStore : Prop :=
  ∀ s t u : State, s.mem.wf = true → u.mem = t.mem →
    (∀ zz, exec (.lsrZp zz) s = .next t → u.pc = zext16 zz →
      (fetchByte u).1.toNat = (memRead (zext16 zz) s).toNat / 2) ∧
    (exec .pha s = .next t → u.pc = s.sp → (fetchByte u).1 = s.a) ∧
    (∀ target, s.sp ≠ 0xFFFF ∨ s.config.wordWriteTop = .wrap → exec (.jsrAbs target) s = .next t →
      (u.pc = s.sp → (fetchWord u).1 = s.pc + 2) ∧
      (u.pc = s.sp + 1 → (fetchByte u).1 = ((s.pc + 2) >>> 8).setWidth 8))

/-- R140, R142: PHA moves SP down and JSR moves it up, so that a JSR straight after a PHA overwrites the byte
the PHA stored, with the high byte of its return address, and SP ends one above where it began. (With SP = 0 before
the PHA, the JSR finds SP = 0xFFFF and completes only under WORD_WRITE_TOP = wrap.) -/
def Obligations.JsrOverwritesThePushedByte : Prop :=
  ∀ (s t u : State) (target : Addr), s.mem.wf = true → s.sp ≠ 0 ∨ s.config.wordWriteTop = .wrap →
    exec .pha s = .next t → exec (.jsrAbs target) t = .next u →
    memRead s.sp u = ((s.pc + 3) >>> 8).setWidth 8 ∧
    memRead (s.sp - 1) u = (s.pc + 3).setWidth 8 ∧ u.sp = s.sp + 1

/-! ### Faults -/

/-- R161, R164: the address fault comes only from a JSR with SP = 0xFFFF under WORD_WRITE_TOP = fault, and the halt
fault only from an unhandled opcode under UNHANDLED_POLICY = halt. -/
def Obligations.FaultsComeOnlyFromTheirCauses : Prop :=
  ∀ s t : State, s.Ready → step s = .next t →
    (∀ addr op opAddr, t.fault = some (.addressOutOfRange addr op opAddr) →
      (∃ target, instrAt s = .jsrAbs target) ∧ s.sp = 0xFFFF ∧ s.config.wordWriteTop = .fault ∧
      addr = 0x10000 ∧ op = memRead s.pc s ∧ opAddr = s.pc) ∧
    (∀ op opAddr, t.fault = some (.unhandledOpcodeHalt op opAddr) →
      instrAt s = .unhandled op ∧ s.config.unhandledPolicy = .halt ∧ op = memRead s.pc s ∧ opAddr = s.pc)

/-- R165, R166: a latched fault is answered by every step and every call of `execute`, with no work done, until
reset clears it. -/
def Obligations.LatchedFaultLastsUntilReset : Prop :=
  ∀ (s : State) (f : Fault), s.resetDone = true → s.fault = some f →
    step s = .fault f ∧
    (∀ b0, execute b0 s = .ok { state := s, budget := b0, status := .faulted f, events := [] }) ∧
    (∀ address bytes t, load address bytes s = .ok t → t.fault = some f) ∧
    (applyReset s).fault = none

/-- The invariant of the machine, from R40 (memory), R91, R161 and R165 (the latch): from every state that has it,
a step leads to a state that has it. The canonical form of memory is the model's own. -/
def Obligations.StepKeepsTheInvariant : Prop :=
  ∀ s t : State, s.Inv → step s = .next t → t.Inv

/-- The invariant holds at reset, whatever the machine's parameters and its state before. -/
def Obligations.ResetHasTheInvariant : Prop :=
  State.reset.Inv ∧ ∀ s : State, (applyReset s).Inv

/-! ### Reset and the host -/

/-- R39, R180, R181 (D5, D9, D10): the state after reset, from any state, and that resetting again changes nothing.
State.reset is that state with R7's default parameters (notes/assumptions/2.md), and with the budget and the events
the model gives it (notes/assumptions/6.md, 8.md). -/
def Obligations.ResetLeavesTheCanonicalState : Prop :=
  ∀ s : State,
    let t := applyReset s
    (t.pc = 0xFFFC ∧ t.sp = 0x0100 ∧ t.a = 0 ∧ t.x = 0 ∧ t.y = 0) ∧
    (t.flags = { c := false, z := false, i := false, d := false, b := false, v := false, n := false }) ∧
    (∀ a, memRead a t = 0) ∧ t.fault = none ∧ t.resetDone = true ∧ applyReset t = t ∧
    State.reset = { t with config := Config.default }

/-- R184: a load inside the address space writes its bytes from its address on and changes nothing else; an empty one
changes nothing. -/
def Obligations.LoadWritesExactlyItsBytes : Prop :=
  ∀ (address : Nat) (bytes : List Byte) (s : State), s.mem.wf = true → address ≤ 0xFFFF →
    address + bytes.length ≤ 0x10000 →
    ∃ t, load address bytes s = .ok t ∧ t = { s with mem := t.mem } ∧ t.mem.wf = true ∧
      ∀ a : Addr, memRead a t =
        if address ≤ a.toNat ∧ a.toNat < address + bytes.length then bytes.getD (a.toNat - address) 0
        else memRead a s

/-- R173: a load at an address outside the address space, an empty one too, or one that runs past its end answers the
first bad address, and no state, so that nothing is written. For an empty load that is its address
(notes/assumptions/13.md). -/
def Obligations.LoadOutOfRangeIsReported : Prop :=
  ∀ (address : Int) (bytes : List Byte) (s : State),
    (address < 0 ∨ 0xFFFF < address →
      load address bytes s = .error (.addressOutOfRange address)) ∧
    (0 ≤ address → address ≤ 0xFFFF → 0xFFFF < address + bytes.length - 1 →
      load address bytes s = .error (.addressOutOfRange 0x10000))

/-- R36, R80, R182, R186: before the first reset `execute` and every register and flag accessor are refused, after it
the accessors answer the register; memory reads as zero from power-on. -/
def Obligations.RegistersAndFlagsAreRefusedBeforeReset : Prop :=
  (∀ s : State, s.resetDone = false →
    (∀ b0, execute b0 s = .error (.refused .notReset)) ∧
    readA s = .error (.refused .notReset) ∧ readX s = .error (.refused .notReset) ∧
    readY s = .error (.refused .notReset) ∧ readPc s = .error (.refused .notReset) ∧
    readSp s = .error (.refused .notReset) ∧ readFlags s = .error (.refused .notReset)) ∧
  (∀ s : State, s.resetDone = true →
    readA s = .ok s.a ∧ readX s = .ok s.x ∧ readY s = .ok s.y ∧ readPc s = .ok s.pc ∧
    readSp s = .ok s.sp ∧ readFlags s = .ok s.flags) ∧
  (∀ regs config, (State.powerOn regs config).resetDone = false ∧
    ∀ a, readCell a (State.powerOn regs config) = 0)

/-- R89: `execute(b0)` with b0 at most 0 does no work. Only the fields in which the model holds the call's own counter and
event list are set (notes/assumptions/6.md, 8.md): of the spec's state (R20) nothing changes. -/
def Obligations.ExecuteWithoutBudgetDoesNoWork : Prop :=
  ∀ (b0 : Int) (s : State), b0 ≤ 0 → s.resetDone = true → s.fault = none →
    execute b0 s = .ok
      { state := { s with budget := b0, events := [] }, budget := b0, status := .exhausted, events := [] }

/-- R171: `execute(1)` runs exactly one instruction. -/
def Obligations.ExecuteOneRunsOneInstruction : Prop :=
  ∀ s : State, s.resetDone = true → s.fault = none →
    ∃ t, exec (instrAt s) { s with budget := 1, events := [] } = .next t ∧
      execute 1 s = .ok { state := t, budget := t.budget, status := statusOf t, events := t.events }

/-- R81, R87: a call ends Exhausted with the budget at 0 or below, or Faulted with the fault in the latch; there is no
third way out, and what it returns is what the state holds. -/
def Obligations.ExecuteEndsExhaustedOrFaulted : Prop :=
  ∀ (b0 : Int) (s : State), s.resetDone = true → s.fault = none →
    ∃ r, execute b0 s = .ok r ∧ r.budget = r.state.budget ∧ r.events = r.state.events ∧
      ((r.status = .exhausted ∧ r.state.fault = none ∧ r.budget ≤ 0) ∨
       ∃ f, r.status = .faulted f ∧ r.state.fault = some f)

/-- R90: the overshoot bound, and that `execute` makes at most b0 iterations. -/
def Obligations.ExecuteOvershootIsBounded : Prop :=
  ∀ (b0 : Int) (s : State) (r : ExecuteResult), 0 < b0 → s.resetDone = true → s.fault = none →
    execute b0 s = .ok r →
    1 - (maxCost s.config : Int) ≤ r.budget ∧ (r.status = .exhausted → r.budget ≤ 0) ∧
    (retiredCount r.events : Int) ≤ b0

/-- R90: the loop always terminates: passes beyond the first b0 change nothing. -/
def Obligations.LoopEndsWithinItsBudget : Prop :=
  ∀ (b0 : Int) (s : State) (n : Nat), b0 ≤ n →
    runCall n (beginCall b0 s) = runCall b0.toNat (beginCall b0 s)

/-- The invariant over a whole call: from every state that has it, `execute` leaves a state that has it. -/
def Obligations.ExecuteKeepsTheInvariant : Prop :=
  ∀ (b0 : Int) (s : State) (r : ExecuteResult), s.Inv → execute b0 s = .ok r → r.state.Inv
end

