-- ==== Sys2Proof/Laws/Decode.lean ====
section
/-! SUPPORT. The Instruction Table as a partial function and its inverse, and the two halves of a word. -/

namespace Sys2Proof

theorem Operation.mem_all (o : Operation) : o ∈ Operation.all := by
  cases o <;> decide

/-- A handler found for an opcode byte is one with that opcode value. -/
theorem OpcodeMap.code_of_lookup {m : OpcodeMap} {op : Byte} {o : Operation} (h : m.lookup op = some o) :
    m.code o = op := by
  simpa using List.find?_some h

/-- No handler is found exactly where no operation has the opcode value. -/
theorem OpcodeMap.lookup_eq_none {m : OpcodeMap} {op : Byte} :
    m.lookup op = none ↔ ∀ o, m.code o ≠ op := by
  simp [OpcodeMap.lookup, Operation.mem_all]

theorem OpcodeMap.code_injective {m : OpcodeMap} (h : m.Distinct) {o o' : Operation}
    (e : m.code o = m.code o') : o = o' :=
  List.inj_on_of_nodup_map h (Operation.mem_all o) (Operation.mem_all o') e

/-- With distinct opcode values the table finds each operation by its own. -/
theorem OpcodeMap.lookup_code {m : OpcodeMap} (h : m.Distinct) (o : Operation) :
    m.lookup (m.code o) = some o := by
  cases e : m.lookup (m.code o) with
  | none => exact absurd rfl (OpcodeMap.lookup_eq_none.1 e o)
  | some o' => rw [OpcodeMap.code_injective h (OpcodeMap.code_of_lookup e)]

/-- An `unhandled` term is well-formed exactly where the table has no handler for its opcode. -/
theorem Instr.wf_unhandled {m : OpcodeMap} {op : Byte} :
    (Instr.unhandled op).wf m = true ↔ m.lookup op = none := by
  simp [Instr.wf, OpcodeMap.lookup_eq_none, Operation.mem_all]

theorem getLsbD_wordOf (hi lo : Byte) (i : Nat) :
    (wordOf hi lo).getLsbD i = if i < 8 then lo.getLsbD i else hi.getLsbD (i - 8) :=
  BitVec.getLsbD_append

@[simp] theorem lowByte_wordOf (hi lo : Byte) : lowByte (wordOf hi lo) = lo := by
  apply BitVec.eq_of_getLsbD_eq
  intro i h
  rw [lowByte, BitVec.getLsbD_extractLsb', getLsbD_wordOf]
  simp [h]

@[simp] theorem highByte_wordOf (hi lo : Byte) : highByte (wordOf hi lo) = hi := by
  apply BitVec.eq_of_getLsbD_eq
  intro i h
  rw [highByte, BitVec.getLsbD_extractLsb', getLsbD_wordOf]
  simp [h]

@[simp] theorem wordOf_bytes (v : Addr) : wordOf (highByte v) (lowByte v) = v := by
  apply BitVec.eq_of_getLsbD_eq
  intro i h
  rw [getLsbD_wordOf, highByte, lowByte, BitVec.getLsbD_extractLsb', BitVec.getLsbD_extractLsb']
  split
  · simp [*]
  · rw [Nat.add_sub_cancel' (by omega)]
    simp [show i - 8 < 8 by omega]

end Sys2Proof
end

