-- ==== Sys2Proof/Laws/State.lean ====
section
/-! SUPPORT. One lemma per field per update of the state record, so that no proof unfolds an update. -/

namespace Sys2Proof.Machine

@[simp] theorem State.setA_a (v : Byte) (s : State) : (s.setA v).a = v := rfl
@[simp] theorem State.setA_x (v : Byte) (s : State) : (s.setA v).x = s.x := rfl
@[simp] theorem State.setA_y (v : Byte) (s : State) : (s.setA v).y = s.y := rfl
@[simp] theorem State.setA_pc (v : Byte) (s : State) : (s.setA v).pc = s.pc := rfl
@[simp] theorem State.setA_sp (v : Byte) (s : State) : (s.setA v).sp = s.sp := rfl
@[simp] theorem State.setA_flags (v : Byte) (s : State) : (s.setA v).flags = s.flags := rfl
@[simp] theorem State.setA_mem (v : Byte) (s : State) : (s.setA v).mem = s.mem := rfl
@[simp] theorem State.setA_fault (v : Byte) (s : State) : (s.setA v).fault = s.fault := rfl
@[simp] theorem State.setA_resetDone (v : Byte) (s : State) : (s.setA v).resetDone = s.resetDone := rfl
@[simp] theorem State.setA_budget (v : Byte) (s : State) : (s.setA v).budget = s.budget := rfl
@[simp] theorem State.setA_events (v : Byte) (s : State) : (s.setA v).events = s.events := rfl
@[simp] theorem State.setA_config (v : Byte) (s : State) : (s.setA v).config = s.config := rfl

@[simp] theorem State.setX_a (v : Byte) (s : State) : (s.setX v).a = s.a := rfl
@[simp] theorem State.setX_x (v : Byte) (s : State) : (s.setX v).x = v := rfl
@[simp] theorem State.setX_y (v : Byte) (s : State) : (s.setX v).y = s.y := rfl
@[simp] theorem State.setX_pc (v : Byte) (s : State) : (s.setX v).pc = s.pc := rfl
@[simp] theorem State.setX_sp (v : Byte) (s : State) : (s.setX v).sp = s.sp := rfl
@[simp] theorem State.setX_flags (v : Byte) (s : State) : (s.setX v).flags = s.flags := rfl
@[simp] theorem State.setX_mem (v : Byte) (s : State) : (s.setX v).mem = s.mem := rfl
@[simp] theorem State.setX_fault (v : Byte) (s : State) : (s.setX v).fault = s.fault := rfl
@[simp] theorem State.setX_resetDone (v : Byte) (s : State) : (s.setX v).resetDone = s.resetDone := rfl
@[simp] theorem State.setX_budget (v : Byte) (s : State) : (s.setX v).budget = s.budget := rfl
@[simp] theorem State.setX_events (v : Byte) (s : State) : (s.setX v).events = s.events := rfl
@[simp] theorem State.setX_config (v : Byte) (s : State) : (s.setX v).config = s.config := rfl

@[simp] theorem State.setY_a (v : Byte) (s : State) : (s.setY v).a = s.a := rfl
@[simp] theorem State.setY_x (v : Byte) (s : State) : (s.setY v).x = s.x := rfl
@[simp] theorem State.setY_y (v : Byte) (s : State) : (s.setY v).y = v := rfl
@[simp] theorem State.setY_pc (v : Byte) (s : State) : (s.setY v).pc = s.pc := rfl
@[simp] theorem State.setY_sp (v : Byte) (s : State) : (s.setY v).sp = s.sp := rfl
@[simp] theorem State.setY_flags (v : Byte) (s : State) : (s.setY v).flags = s.flags := rfl
@[simp] theorem State.setY_mem (v : Byte) (s : State) : (s.setY v).mem = s.mem := rfl
@[simp] theorem State.setY_fault (v : Byte) (s : State) : (s.setY v).fault = s.fault := rfl
@[simp] theorem State.setY_resetDone (v : Byte) (s : State) : (s.setY v).resetDone = s.resetDone := rfl
@[simp] theorem State.setY_budget (v : Byte) (s : State) : (s.setY v).budget = s.budget := rfl
@[simp] theorem State.setY_events (v : Byte) (s : State) : (s.setY v).events = s.events := rfl
@[simp] theorem State.setY_config (v : Byte) (s : State) : (s.setY v).config = s.config := rfl

@[simp] theorem State.setPc_a (v : Addr) (s : State) : (s.setPc v).a = s.a := rfl
@[simp] theorem State.setPc_x (v : Addr) (s : State) : (s.setPc v).x = s.x := rfl
@[simp] theorem State.setPc_y (v : Addr) (s : State) : (s.setPc v).y = s.y := rfl
@[simp] theorem State.setPc_pc (v : Addr) (s : State) : (s.setPc v).pc = v := rfl
@[simp] theorem State.setPc_sp (v : Addr) (s : State) : (s.setPc v).sp = s.sp := rfl
@[simp] theorem State.setPc_flags (v : Addr) (s : State) : (s.setPc v).flags = s.flags := rfl
@[simp] theorem State.setPc_mem (v : Addr) (s : State) : (s.setPc v).mem = s.mem := rfl
@[simp] theorem State.setPc_fault (v : Addr) (s : State) : (s.setPc v).fault = s.fault := rfl
@[simp] theorem State.setPc_resetDone (v : Addr) (s : State) : (s.setPc v).resetDone = s.resetDone := rfl
@[simp] theorem State.setPc_budget (v : Addr) (s : State) : (s.setPc v).budget = s.budget := rfl
@[simp] theorem State.setPc_events (v : Addr) (s : State) : (s.setPc v).events = s.events := rfl
@[simp] theorem State.setPc_config (v : Addr) (s : State) : (s.setPc v).config = s.config := rfl

@[simp] theorem State.setSp_a (v : Addr) (s : State) : (s.setSp v).a = s.a := rfl
@[simp] theorem State.setSp_x (v : Addr) (s : State) : (s.setSp v).x = s.x := rfl
@[simp] theorem State.setSp_y (v : Addr) (s : State) : (s.setSp v).y = s.y := rfl
@[simp] theorem State.setSp_pc (v : Addr) (s : State) : (s.setSp v).pc = s.pc := rfl
@[simp] theorem State.setSp_sp (v : Addr) (s : State) : (s.setSp v).sp = v := rfl
@[simp] theorem State.setSp_flags (v : Addr) (s : State) : (s.setSp v).flags = s.flags := rfl
@[simp] theorem State.setSp_mem (v : Addr) (s : State) : (s.setSp v).mem = s.mem := rfl
@[simp] theorem State.setSp_fault (v : Addr) (s : State) : (s.setSp v).fault = s.fault := rfl
@[simp] theorem State.setSp_resetDone (v : Addr) (s : State) : (s.setSp v).resetDone = s.resetDone := rfl
@[simp] theorem State.setSp_budget (v : Addr) (s : State) : (s.setSp v).budget = s.budget := rfl
@[simp] theorem State.setSp_events (v : Addr) (s : State) : (s.setSp v).events = s.events := rfl
@[simp] theorem State.setSp_config (v : Addr) (s : State) : (s.setSp v).config = s.config := rfl

@[simp] theorem State.setFlags_a (f : Flags) (s : State) : (s.setFlags f).a = s.a := rfl
@[simp] theorem State.setFlags_x (f : Flags) (s : State) : (s.setFlags f).x = s.x := rfl
@[simp] theorem State.setFlags_y (f : Flags) (s : State) : (s.setFlags f).y = s.y := rfl
@[simp] theorem State.setFlags_pc (f : Flags) (s : State) : (s.setFlags f).pc = s.pc := rfl
@[simp] theorem State.setFlags_sp (f : Flags) (s : State) : (s.setFlags f).sp = s.sp := rfl
@[simp] theorem State.setFlags_flags (f : Flags) (s : State) : (s.setFlags f).flags = f := rfl
@[simp] theorem State.setFlags_mem (f : Flags) (s : State) : (s.setFlags f).mem = s.mem := rfl
@[simp] theorem State.setFlags_fault (f : Flags) (s : State) : (s.setFlags f).fault = s.fault := rfl
@[simp] theorem State.setFlags_resetDone (f : Flags) (s : State) : (s.setFlags f).resetDone = s.resetDone := rfl
@[simp] theorem State.setFlags_budget (f : Flags) (s : State) : (s.setFlags f).budget = s.budget := rfl
@[simp] theorem State.setFlags_events (f : Flags) (s : State) : (s.setFlags f).events = s.events := rfl
@[simp] theorem State.setFlags_config (f : Flags) (s : State) : (s.setFlags f).config = s.config := rfl

@[simp] theorem State.setMem_a (m : Memory) (s : State) : (s.setMem m).a = s.a := rfl
@[simp] theorem State.setMem_x (m : Memory) (s : State) : (s.setMem m).x = s.x := rfl
@[simp] theorem State.setMem_y (m : Memory) (s : State) : (s.setMem m).y = s.y := rfl
@[simp] theorem State.setMem_pc (m : Memory) (s : State) : (s.setMem m).pc = s.pc := rfl
@[simp] theorem State.setMem_sp (m : Memory) (s : State) : (s.setMem m).sp = s.sp := rfl
@[simp] theorem State.setMem_flags (m : Memory) (s : State) : (s.setMem m).flags = s.flags := rfl
@[simp] theorem State.setMem_mem (m : Memory) (s : State) : (s.setMem m).mem = m := rfl
@[simp] theorem State.setMem_fault (m : Memory) (s : State) : (s.setMem m).fault = s.fault := rfl
@[simp] theorem State.setMem_resetDone (m : Memory) (s : State) : (s.setMem m).resetDone = s.resetDone := rfl
@[simp] theorem State.setMem_budget (m : Memory) (s : State) : (s.setMem m).budget = s.budget := rfl
@[simp] theorem State.setMem_events (m : Memory) (s : State) : (s.setMem m).events = s.events := rfl
@[simp] theorem State.setMem_config (m : Memory) (s : State) : (s.setMem m).config = s.config := rfl

@[simp] theorem State.charge_a (n : Nat) (s : State) : (s.charge n).a = s.a := rfl
@[simp] theorem State.charge_x (n : Nat) (s : State) : (s.charge n).x = s.x := rfl
@[simp] theorem State.charge_y (n : Nat) (s : State) : (s.charge n).y = s.y := rfl
@[simp] theorem State.charge_pc (n : Nat) (s : State) : (s.charge n).pc = s.pc := rfl
@[simp] theorem State.charge_sp (n : Nat) (s : State) : (s.charge n).sp = s.sp := rfl
@[simp] theorem State.charge_flags (n : Nat) (s : State) : (s.charge n).flags = s.flags := rfl
@[simp] theorem State.charge_mem (n : Nat) (s : State) : (s.charge n).mem = s.mem := rfl
@[simp] theorem State.charge_fault (n : Nat) (s : State) : (s.charge n).fault = s.fault := rfl
@[simp] theorem State.charge_resetDone (n : Nat) (s : State) : (s.charge n).resetDone = s.resetDone := rfl
@[simp] theorem State.charge_budget (n : Nat) (s : State) : (s.charge n).budget = s.budget - n := rfl
@[simp] theorem State.charge_events (n : Nat) (s : State) : (s.charge n).events = s.events := rfl
@[simp] theorem State.charge_config (n : Nat) (s : State) : (s.charge n).config = s.config := rfl

@[simp] theorem State.emit_a (e : Event) (s : State) : (s.emit e).a = s.a := rfl
@[simp] theorem State.emit_x (e : Event) (s : State) : (s.emit e).x = s.x := rfl
@[simp] theorem State.emit_y (e : Event) (s : State) : (s.emit e).y = s.y := rfl
@[simp] theorem State.emit_pc (e : Event) (s : State) : (s.emit e).pc = s.pc := rfl
@[simp] theorem State.emit_sp (e : Event) (s : State) : (s.emit e).sp = s.sp := rfl
@[simp] theorem State.emit_flags (e : Event) (s : State) : (s.emit e).flags = s.flags := rfl
@[simp] theorem State.emit_mem (e : Event) (s : State) : (s.emit e).mem = s.mem := rfl
@[simp] theorem State.emit_fault (e : Event) (s : State) : (s.emit e).fault = s.fault := rfl
@[simp] theorem State.emit_resetDone (e : Event) (s : State) : (s.emit e).resetDone = s.resetDone := rfl
@[simp] theorem State.emit_budget (e : Event) (s : State) : (s.emit e).budget = s.budget := rfl
@[simp] theorem State.emit_events (e : Event) (s : State) : (s.emit e).events = s.events ++ [e] := rfl
@[simp] theorem State.emit_config (e : Event) (s : State) : (s.emit e).config = s.config := rfl

@[simp] theorem State.latch_a (f : Fault) (s : State) : (s.latch f).a = s.a := rfl
@[simp] theorem State.latch_x (f : Fault) (s : State) : (s.latch f).x = s.x := rfl
@[simp] theorem State.latch_y (f : Fault) (s : State) : (s.latch f).y = s.y := rfl
@[simp] theorem State.latch_pc (f : Fault) (s : State) : (s.latch f).pc = s.pc := rfl
@[simp] theorem State.latch_sp (f : Fault) (s : State) : (s.latch f).sp = s.sp := rfl
@[simp] theorem State.latch_flags (f : Fault) (s : State) : (s.latch f).flags = s.flags := rfl
@[simp] theorem State.latch_mem (f : Fault) (s : State) : (s.latch f).mem = s.mem := rfl
@[simp] theorem State.latch_fault (f : Fault) (s : State) : (s.latch f).fault = some f := rfl
@[simp] theorem State.latch_resetDone (f : Fault) (s : State) : (s.latch f).resetDone = s.resetDone := rfl
@[simp] theorem State.latch_budget (f : Fault) (s : State) : (s.latch f).budget = s.budget := rfl
@[simp] theorem State.latch_events (f : Fault) (s : State) : (s.latch f).events = s.events := rfl
@[simp] theorem State.latch_config (f : Fault) (s : State) : (s.latch f).config = s.config := rfl

end Sys2Proof.Machine
end

