-- ==== Sys2Proof/Laws/Memory.lean ====
section
/-! SUPPORT. The memory list: reading after writing, and that every operation keeps the canonical form. -/

namespace Sys2Proof.Machine

@[simp] theorem Memory.read_nil (a : Nat) : Memory.read [] a = Memory.unlisted := rfl

theorem Memory.wfFrom_cons (low a : Nat) (v : Byte) (rest : Memory) :
    Memory.wfFrom low ((a, v) :: rest) = true ↔
      low ≤ a ∧ a < 65536 ∧ v ≠ Memory.unlisted ∧ Memory.wfFrom (a + 1) rest = true := by
  simp [Memory.wfFrom, and_assoc]

theorem Memory.wfFrom_mono {low low' : Nat} (h : low' ≤ low) {m : Memory} (hm : m.wfFrom low = true) :
    m.wfFrom low' = true := by
  cases m with
  | nil => rfl
  | cons c rest =>
    obtain ⟨a, v⟩ := c
    rw [Memory.wfFrom_cons] at hm ⊢
    exact ⟨h.trans hm.1, hm.2⟩

/-- Below the lowest allowed address nothing is listed. -/
theorem Memory.read_below {low a : Nat} {m : Memory} (hm : m.wfFrom low = true) (h : a < low) :
    m.read a = Memory.unlisted := by
  induction m generalizing low with
  | nil => rfl
  | cons c rest ih =>
    obtain ⟨k, v⟩ := c
    obtain ⟨h1, -, -, h4⟩ := (Memory.wfFrom_cons ..).1 hm
    have hk : a ≠ k := by omega
    simp [Memory.read, hk, ih h4 (by omega)]

theorem Memory.consCell_wfFrom {low a : Nat} {v : Byte} {rest : Memory} (h1 : low ≤ a) (h2 : a < 65536)
    (hr : rest.wfFrom (a + 1) = true) : (Memory.consCell a v rest).wfFrom low = true := by
  unfold Memory.consCell
  split
  · exact Memory.wfFrom_mono (by omega) hr
  · exact (Memory.wfFrom_cons ..).2 ⟨h1, h2, ‹_›, hr⟩

theorem Memory.write_wfFrom {low a : Nat} {v : Byte} {m : Memory} (hm : m.wfFrom low = true)
    (h1 : low ≤ a) (h2 : a < 65536) : (m.write a v).wfFrom low = true := by
  induction m generalizing low with
  | nil => exact Memory.consCell_wfFrom h1 h2 rfl
  | cons c rest ih =>
    obtain ⟨k, w⟩ := c
    obtain ⟨k1, k2, k3, k4⟩ := (Memory.wfFrom_cons ..).1 hm
    unfold Memory.write
    split
    · exact Memory.consCell_wfFrom h1 h2 ((Memory.wfFrom_cons ..).2 ⟨by omega, k2, k3, k4⟩)
    · split
      · subst k
        exact Memory.consCell_wfFrom h1 h2 k4
      · exact (Memory.wfFrom_cons ..).2 ⟨k1, k2, k3, ih k4 (by omega)⟩

/-- Every write inside the address space keeps the canonical form. -/
theorem Memory.write_wf {m : Memory} (hm : m.wf = true) {a : Nat} (ha : a < 65536) (v : Byte) :
    (m.write a v).wf = true :=
  Memory.write_wfFrom hm (Nat.zero_le a) ha

theorem Memory.read_consCell {a b : Nat} {v : Byte} {rest : Memory} (hr : rest.wfFrom (a + 1) = true) :
    (Memory.consCell a v rest).read b = if b = a then v else rest.read b := by
  unfold Memory.consCell
  split
  · split
    · subst b v
      exact Memory.read_below hr (Nat.lt_succ_self a)
    · rfl
  · rfl

theorem Memory.read_write_from {low a b : Nat} {v : Byte} {m : Memory} (hm : m.wfFrom low = true) :
    (m.write a v).read b = if b = a then v else m.read b := by
  induction m generalizing low with
  | nil => exact Memory.read_consCell rfl
  | cons c rest ih =>
    obtain ⟨k, w⟩ := c
    obtain ⟨-, k2, k3, k4⟩ := (Memory.wfFrom_cons ..).1 hm
    unfold Memory.write
    split
    · exact Memory.read_consCell ((Memory.wfFrom_cons ..).2 ⟨by omega, k2, k3, k4⟩)
    · split
      · subst k
        rw [Memory.read_consCell k4]
        by_cases hb : b = a <;> simp [Memory.read, hb]
      · simp only [Memory.read, ih k4]
        by_cases hb : b = k
        · simp [hb]
          intro h; omega
        · simp [hb]

/-- Reading after a write to a canonical memory: the value at its address, everything else as before. -/
theorem Memory.read_write {m : Memory} (hm : m.wf = true) (a b : Nat) (v : Byte) :
    (m.write a v).read b = if b = a then v else m.read b :=
  Memory.read_write_from hm

/-- A run of writes inside the address space keeps the canonical form. -/
theorem Memory.writeAll_wf {m : Memory} (hm : m.wf = true) {a : Nat} {bytes : List Byte}
    (h : a + bytes.length ≤ 65536) : (m.writeAll a bytes).wf = true := by
  induction bytes generalizing m a with
  | nil => exact hm
  | cons v rest ih =>
    simp only [List.length_cons] at h
    exact ih (Memory.write_wf hm (by omega) v) (by omega)

end Sys2Proof.Machine
end

