-- ==== Sys2Proof/Laws/Ops.lean ====
section
/-! SUPPORT. One lemma per shared operation that says everything it does: the byte and word writes, the fetches, the
flag updates, retiring, taking a fault, and the frame around a handler. -/

namespace Sys2Proof.Machine

/-! ### Writes -/

@[simp] theorem setByte_mem (addr : Addr) (v : Byte) (s : State) :
    (setByte addr v s).mem = s.mem.write addr.toNat v := rfl

theorem setByte_wf {s : State} (h : s.mem.wf = true) (addr : Addr) (v : Byte) :
    (setByte addr v s).mem.wf = true :=
  Memory.write_wf h addr.isLt v

theorem memRead_setByte {s : State} (h : s.mem.wf = true) (addr a : Addr) (v : Byte) :
    memRead a (setByte addr v s) = if a = addr then v else memRead a s := by
  simp [memRead, Memory.read_write h, BitVec.toNat_inj]

/-- All a byte write does (R43). -/
theorem memWrite_eq (addr : Addr) (v : Byte) (s : State) :
    memWrite addr v s = { s with
      mem := s.mem.write addr.toNat v, budget := s.budget - s.config.byteWriteCost } := rfl

/-- All a word write does (R44): it raises with the state untouched, or it writes its two bytes. -/
theorem memWriteWord_cases (addr v : Addr) (s : State) :
    (addr = 0xFFFF ∧ s.config.wordWriteTop = .fault ∧ memWriteWord addr v s = .raised 0x10000 s) ∨
    ((addr ≠ 0xFFFF ∨ s.config.wordWriteTop = .wrap) ∧
      memWriteWord addr v s = .done { s with
        mem := (s.mem.write addr.toNat (lowByte v)).write (addr + 1).toNat (highByte v)
        budget := s.budget - 2 }) := by
  unfold memWriteWord
  by_cases ha : addr = 0xFFFF
  · subst ha
    cases hc : s.config.wordWriteTop
    · exact .inl ⟨rfl, rfl, rfl⟩
    · exact .inr ⟨.inr rfl, rfl⟩
  · rw [if_neg ha]
    exact .inr ⟨.inl ha, rfl⟩

/-- Two consecutive addresses differ, at the top of memory too. -/
theorem succ_addr_ne (a : Addr) : a + 1 ≠ a := by bv_omega

/-- The opcode's fetch and one operand byte's advance PC by 2 (R46). -/
theorem pc_after_byte (a : Addr) : a + 1 + 1 = a + 2 := by bv_omega

/-- The opcode's fetch and an operand word's advance PC by 3 (R46, R47). -/
theorem pc_after_word (a : Addr) : a + 1 + 2 = a + 3 := by bv_omega

/-- JSR's return address is that of its last byte (R142). -/
theorem return_addr (a : Addr) : a + 3 - 1 = a + 2 := by bv_omega

/-- Reading after the two byte writes of a word (R44). -/
theorem read_write_word {m : Memory} (h : m.wf = true) (addr a : Addr) (lo hi : Byte) :
    ((m.write addr.toNat lo).write (addr + 1).toNat hi).read a.toNat =
      if a = addr then lo else if a = addr + 1 then hi else m.read a.toNat := by
  rw [Memory.read_write (Memory.write_wf h addr.isLt _), Memory.read_write h]
  simp only [BitVec.toNat_inj]
  by_cases h1 : a = addr
  · subst h1
    simp
  · simp [h1]

/-! ### Fetches and reads -/

/-- R46. -/
theorem fetchByte_eq (s : State) :
    fetchByte s = (memRead s.pc s, { s with pc := s.pc + 1, budget := s.budget - 1 }) := rfl

/-- R47. -/
theorem fetchWord_eq (s : State) :
    fetchWord s = (wordOf (memRead (s.pc + 1) s) (memRead s.pc s),
      { s with pc := s.pc + 2, budget := s.budget - 2 }) := rfl

/-- R48. -/
theorem readByte_eq (addr : Addr) (s : State) :
    readByte addr s = (memRead addr s, { s with budget := s.budget - 1 }) := rfl

/-- A read sees the memory alone. -/
theorem memRead_congr {s t : State} (h : s.mem = t.mem) (a : Addr) : memRead a s = memRead a t := by
  rw [memRead, memRead, h]

/-! ### Flags -/

@[simp] theorem setNZ_flags (v : Byte) (s : State) :
    (setNZ v s).flags = { s.flags with z := decide (v = 0), n := v.msb } := rfl

theorem setNZ_eq (v : Byte) (s : State) :
    setNZ v s = { s with flags := { s.flags with z := decide (v = 0), n := v.msb } } := rfl

theorem setShiftFlags_eq (old : Byte) (s : State) :
    setShiftFlags old s = { s with
      flags := { s.flags with c := old.getLsbD 0, z := decide (old >>> 1 = 0), n := false } } := rfl

/-! ### What the handlers share -/

theorem loadA_eq (v : Byte) (s : State) :
    loadA v s = { s with a := v, flags := { s.flags with z := decide (v = 0), n := v.msb } } := rfl

theorem loadX_eq (v : Byte) (s : State) :
    loadX v s = { s with x := v, flags := { s.flags with z := decide (v = 0), n := v.msb } } := rfl

theorem loadY_eq (v : Byte) (s : State) :
    loadY v s = { s with y := v, flags := { s.flags with z := decide (v = 0), n := v.msb } } := rfl

/-- R64: a zero-page operand read from the state after the opcode's fetch. -/
theorem readZeroPage_eq (zz : Byte) (s : State) :
    readZeroPage zz s = (memRead (zext16 zz) s, { s with pc := s.pc + 1, budget := s.budget - 1 - 1 }) := rfl

/-- R65: a zero-page,X operand read from the state after the opcode's fetch. -/
theorem readZeroPageX_eq (zz : Byte) (s : State) :
    readZeroPageX zz s = (memRead (zext16 (zz + s.x)) s,
      { s with pc := s.pc + 1, budget := s.budget - 1 - 1 - 1 }) := rfl

/-- All that a call does after its target is fetched (R142): it raises with the state untouched, or it stores the
return address and goes. -/
theorem callTarget_cases (target : Addr) (s : State) :
    (s.sp = 0xFFFF ∧ s.config.wordWriteTop = .fault ∧ callTarget target s = .raised 0x10000 s) ∨
    ((s.sp ≠ 0xFFFF ∨ s.config.wordWriteTop = .wrap) ∧
      callTarget target s = .done { s with
        mem := (s.mem.write s.sp.toNat (lowByte (s.pc - 1))).write (s.sp + 1).toNat (highByte (s.pc - 1))
        sp := s.sp + 2, pc := target, budget := s.budget - 2 }) := by
  unfold callTarget
  rcases memWriteWord_cases s.sp (s.pc - 1) s with ⟨h1, h2, h3⟩ | ⟨h1, h2⟩
  · exact .inl ⟨h1, h2, by rw [h3]; rfl⟩
  · exact .inr ⟨h1, by rw [h2]; rfl⟩

/-- What the policy for unhandled opcodes can do (R84, R91). -/
theorem applyUnhandledPolicy_eq (op : Byte) (opAddr : Addr) (s : State) :
    applyUnhandledPolicy op opAddr s =
      if s.config.unhandledPolicy = .halt then { s with fault := some (.unhandledOpcodeHalt op opAddr) }
      else s := by
  unfold applyUnhandledPolicy
  cases s.config.unhandledPolicy <;> rfl

/-! ### Retiring, and taking a fault -/

/-- All that retiring does (R86). -/
theorem retire_eq (op : Byte) (opAddr : Addr) (s : State) :
    retire op opAddr s = { s with
      events := s.events ++ [.retired op opAddr s.snapshot s.budget] } := rfl

/-- All that taking an address fault does (R165). -/
theorem takeAddressFault_eq (addr : Nat) (op : Byte) (opAddr : Addr) (s : State) :
    takeAddressFault addr op opAddr s = { s with
      fault := some (.addressOutOfRange addr op opAddr) } := rfl

/-- All that the frame around a handler does: a body that is done retires, one that raised takes the fault. -/
theorem handle_cases {o : Operation} {body : State → Ran} {s : State}
    {r : Host.Outcome State Fault Refusal} (h : handle o body s = r) :
    (∃ u, body (fetchByte s).2 = .done u ∧ r = .next (retire (s.config.opcodes.code o) s.pc u)) ∨
    (∃ addr u, body (fetchByte s).2 = .raised addr u ∧
      r = .next (takeAddressFault addr (s.config.opcodes.code o) s.pc u)) := by
  unfold handle at h
  cases hb : body (fetchByte s).2 with
  | done u => rw [hb] at h; exact .inl ⟨u, rfl, h.symm⟩
  | raised addr u => rw [hb] at h; exact .inr ⟨addr, u, rfl, h.symm⟩

end Sys2Proof.Machine
end

