-- ==== Sys2Proof/Laws/Step.lean ====
section
/-! SUPPORT. What a step and a run of steps can do, said once. -/

namespace Sys2Proof.Machine

/-- Everything a step that answers a next state can be: an idle pass, or the instruction at PC. -/
theorem step_next_cases {s t : State} (h : step s = .next t) :
    s.resetDone = true ∧ s.fault = none ∧
      ((s.budget ≤ 0 ∧ t = s) ∨ (0 < s.budget ∧ exec (instrAt s) s = .next t)) := by
  unfold step iterate at h
  cases hr : s.resetDone with
  | false => simp [hr] at h
  | true =>
    cases hf : s.fault with
    | some f => simp [hr, hf] at h
    | none =>
      simp only [hr, hf, if_true] at h
      split at h
      · exact ⟨rfl, rfl, .inl ⟨‹_›, (Host.Outcome.next.inj h).symm⟩⟩
      · exact ⟨rfl, rfl, .inr ⟨by omega, h⟩⟩

/-- A ready machine runs the instruction at PC. -/
theorem step_of_ready {s : State} (h : s.Ready) : step s = exec (instrAt s) s := by
  obtain ⟨hr, hf, hb⟩ := h
  have hb' : ¬ s.budget ≤ 0 := by omega
  simp [step, iterate, hr, hf, hb']

/-- A property that every step keeps is kept by every run of steps. -/
theorem runCall_keeps {P : State → Prop} (hP : ∀ s t, P s → step s = .next t → P t) (n : Nat) {s : State}
    (h : P s) : P (runCall n s) := by
  induction n generalizing s with
  | zero => exact h
  | succ n ih =>
    unfold runCall
    cases hs : step s with
    | next t => exact ih (hP s t h hs)
    | fault f => exact h
    | refused r => exact h

/-- With no cell listed, every address reads as zero. -/
@[simp] theorem memRead_nil (a : Addr) (s : State) (h : s.mem = []) : memRead a s = 0 := by
  simp [memRead, h, Memory.unlisted]

end Sys2Proof.Machine
end

