-- ==== Sys2Proof/Laws/HostApi.lean ====
section
/-! SUPPORT. What the host's calls can do, said once: load and execute by their outcomes. -/

namespace Sys2Proof.Machine

/-- A load has no bad address exactly where its address and its last byte lie in the address space (R173). -/
theorem firstBadAddress_eq_none {address : Int} {n : Nat} :
    firstBadAddress address n = none ↔ 0 ≤ address ∧ address ≤ 0xFFFF ∧ address + n ≤ 0x10000 := by
  unfold firstBadAddress
  split
  · simp
    omega
  · split
    · simp
      omega
    · simp
      omega

/-- All that a load can answer (R173, R184): the memory written, or an error and no state. -/
theorem load_cases {address : Int} {bytes : List Byte} {s : State} {r : Except HostError State}
    (h : load address bytes s = r) :
    (firstBadAddress address bytes.length = none ∧
      r = .ok { s with mem := s.mem.writeAll address.toNat bytes }) ∨
    (∃ bad, firstBadAddress address bytes.length = some bad ∧ r = .error (.addressOutOfRange bad)) := by
  unfold load at h
  cases hb : firstBadAddress address bytes.length with
  | none => rw [hb] at h; exact .inl ⟨rfl, h.symm⟩
  | some bad => rw [hb] at h; exact .inr ⟨bad, rfl, h.symm⟩

/-- All that a call that returns can be (R80, R87): one on a latched fault, or a run of the loop. -/
theorem execute_ok_cases {b0 : Int} {s : State} {r : ExecuteResult} (h : execute b0 s = .ok r) :
    s.resetDone = true ∧
      ((∃ f, s.fault = some f ∧ r = { state := s, budget := b0, status := .faulted f, events := [] }) ∨
       (s.fault = none ∧ ∃ t, t = runCall b0.toNat (beginCall b0 s) ∧
         r = { state := t, budget := t.budget, status := statusOf t, events := t.events })) := by
  unfold execute at h
  split at h
  · refine ⟨‹_›, ?_⟩
    split at h
    · exact .inl ⟨_, ‹_›, (Except.ok.inj h).symm⟩
    · exact .inr ⟨‹_›, _, rfl, (Except.ok.inj h).symm⟩
  · cases h

/-- A pass that changes nothing changes nothing however often it is made. -/
theorem runCall_of_idle {s : State} (h : step s = .next s) (n : Nat) : runCall n s = s := by
  induction n with
  | zero => rfl
  | succ n ih => unfold runCall; rw [h]; exact ih

end Sys2Proof.Machine
end

