-- ==== Sys2Proof/Laws/PerInstr.lean ====
section
/-! SUPPORT. Statements about every instruction as syntax, one lemma per constructor: an encoding is as long as the
instruction's format says (30_encoding.md R60, R70). -/

namespace Sys2Proof.Laws.EncodeLength

/-- The encoding has the instruction's length in bytes. -/
def Statement (i : Instr) : Prop := ∀ m : OpcodeMap, (encode m i).length = i.length

theorem ldaImm (imm : Byte) : Statement (.ldaImm imm) := fun _ => rfl
theorem ldaZp (zz : Byte) : Statement (.ldaZp zz) := fun _ => rfl
theorem ldaZpX (zz : Byte) : Statement (.ldaZpX zz) := fun _ => rfl
theorem ldxImm (imm : Byte) : Statement (.ldxImm imm) := fun _ => rfl
theorem ldxZp (zz : Byte) : Statement (.ldxZp zz) := fun _ => rfl
theorem ldyImm (imm : Byte) : Statement (.ldyImm imm) := fun _ => rfl
theorem ldyZp (zz : Byte) : Statement (.ldyZp zz) := fun _ => rfl
theorem lsrAcc : Statement .lsrAcc := fun _ => rfl
theorem lsrZp (zz : Byte) : Statement (.lsrZp zz) := fun _ => rfl
theorem oraImm (imm : Byte) : Statement (.oraImm imm) := fun _ => rfl
theorem oraZp (zz : Byte) : Statement (.oraZp zz) := fun _ => rfl
theorem pha : Statement .pha := fun _ => rfl
theorem jsrAbs (target : Addr) : Statement (.jsrAbs target) := fun _ => rfl
theorem nop : Statement .nop := fun _ => rfl
theorem unhandled (op : Byte) : Statement (.unhandled op) := fun _ => rfl

end Sys2Proof.Laws.EncodeLength
end

