-- ==== Sys2Proof/Tests/Slice0.lean ====
section
/-! SUPPORT. Tests: the well-formedness checks, a word of every row of the opcode table, the vectors of 95_test_vectors.md one step
each (their ids stand at each test), and, for every obligation with hypotheses, a state that meets them. -/

namespace Sys2Proof.Tests

open Sys2Proof Sys2Proof.Machine

/-! ### Well-formedness -/

theorem test_wf_refuses_unhandled_lda : (Instr.unhandled 0xA9).wf OpcodeMap.mos6502 = false := by decide
theorem test_wf_refuses_unhandled_nop : (Instr.unhandled 0xEA).wf OpcodeMap.mos6502 = false := by decide
theorem test_wf_accepts_unhandled_brk : (Instr.unhandled 0x00).wf OpcodeMap.mos6502 = true := by decide
theorem test_default_opcodes_distinct : OpcodeMap.mos6502.Distinct := by decide
theorem test_clashing_opcodes_not_distinct :
    ¬ OpcodeMap.Distinct { OpcodeMap.mos6502 with nop := 0xA9 } := by decide
theorem test_memory_wf_refuses_zero_cell : Memory.wf [(5, 0)] = false := by decide
theorem test_memory_wf_refuses_unsorted : Memory.wf [(6, 1), (5, 1)] = false := by decide
theorem test_memory_wf_refuses_beyond : Memory.wf [(65536, 1)] = false := by decide
theorem test_memory_wf_accepts_top : Memory.wf [(0, 1), (65535, 1)] = true := by decide

/-! ### Decoding: words written out from the bits column of R62 and the examples of R71 -/

theorem test_decode_ldaImm :
    decode OpcodeMap.mos6502 [0b10101001, 0x80] = .ok (.ldaImm 0x80, []) := by decide
theorem test_decode_ldaZp :
    decode OpcodeMap.mos6502 [0b10100101, 0xFA] = .ok (.ldaZp 0xFA, []) := by decide
theorem test_decode_ldaZpX :
    decode OpcodeMap.mos6502 [0b10110101, 0xFA] = .ok (.ldaZpX 0xFA, []) := by decide
theorem test_decode_ldxImm :
    decode OpcodeMap.mos6502 [0b10100010, 0x01] = .ok (.ldxImm 0x01, []) := by decide
theorem test_decode_ldxZp :
    decode OpcodeMap.mos6502 [0b10100110, 0x10] = .ok (.ldxZp 0x10, []) := by decide
theorem test_decode_ldyImm :
    decode OpcodeMap.mos6502 [0b10100000, 0x7F] = .ok (.ldyImm 0x7F, []) := by decide
theorem test_decode_ldyZp :
    decode OpcodeMap.mos6502 [0b10100100, 0xC0] = .ok (.ldyZp 0xC0, []) := by decide
theorem test_decode_lsrAcc :
    decode OpcodeMap.mos6502 [0b01001010, 0x55] = .ok (.lsrAcc, [0x55]) := by decide
theorem test_decode_lsrZp :
    decode OpcodeMap.mos6502 [0b01000110, 0x42] = .ok (.lsrZp 0x42, []) := by decide
theorem test_decode_oraImm :
    decode OpcodeMap.mos6502 [0b00001001, 0x80] = .ok (.oraImm 0x80, []) := by decide
theorem test_decode_oraZp :
    decode OpcodeMap.mos6502 [0b00000101, 0x20] = .ok (.oraZp 0x20, []) := by decide
theorem test_decode_pha :
    decode OpcodeMap.mos6502 [0b01001000] = .ok (.pha, []) := by decide
theorem test_decode_jsrAbs :
    decode OpcodeMap.mos6502 [0b00100000, 0x42, 0x43] = .ok (.jsrAbs 0x4342, []) := by decide
theorem test_decode_nop :
    decode OpcodeMap.mos6502 [0b11101010] = .ok (.nop, []) := by decide
theorem test_decode_unhandled_ldy_zp_x :
    decode OpcodeMap.mos6502 [0xB4, 0x10] = .ok (.unhandled 0xB4, [0x10]) := by decide
theorem test_decode_rejects_short_jsr :
    decode OpcodeMap.mos6502 [0x20, 0x42] = .error (.operandMissing 0x20) := by decide
theorem test_decode_rejects_nothing : decode OpcodeMap.mos6502 [] = .error .noOpcode := by decide
theorem test_table_word_jsr : decodeTableWord 24 0x434220 = some (.jsrAbs 0x4342) := by decide
theorem test_table_word_opcode_only : decodeTableWord 8 0xA9 = some (.ldaImm 0) := by decide

/-- How many of the 64 opcode values from `from'` on are unhandled under the default map. -/
def unhandledAmong (from' : Nat) : Nat :=
  ((List.range' from' 64).filter fun n => (OpcodeMap.mos6502.lookup (BitVec.ofNat 8 n)).isNone).length

/-- R69: 242 of the 256 opcode values are unhandled; R62 lists 3, 3, 7 and 1 in the four quarters. -/
theorem test_unhandled_count :
    unhandledAmong 0x00 = 61 ∧ unhandledAmong 0x40 = 61 ∧ unhandledAmong 0x80 = 57 ∧ unhandledAmong 0xC0 = 63 := by
  decide

/-! ### One step of each instruction -/

/-- After reset, with code at 0xFFFC, data at one further address, and a budget. -/
def start (code : List Byte) (budget : Int) (at' : Nat := 0) (data : List Byte := []) : State :=
  { State.reset with mem := (Memory.writeAll [] at' data).writeAll 0xFFFC code, budget := budget }

/-- The outcome is a next state with a property. -/
def nextHas (o : Host.Outcome State Fault Refusal) (p : State → Bool) : Bool :=
  match o with
  | .next s => p s
  | .fault _ => false
  | .refused _ => false

/-- E3, its first instruction -/
theorem test_lda_imm_negative : nextHas (step (start [0xA9, 0x80, 0xEA] 3)) (fun t =>
    t.a == 0x80 && !t.flags.z && t.flags.n && t.budget == 1) = true := by decide
/-- E4 -/
theorem test_lda_zp : nextHas (step (start [0xA5, 0xFA] 3 0xFA [0xE5])) (fun t =>
    t.a == 0xE5 && !t.flags.z && t.flags.n && t.pc == 0xFFFE && t.budget == 0) = true := by decide
/-- L9: overshoot -/
theorem test_lda_zp_overshoot : nextHas (step (start [0xA5, 0x10] 2)) (fun t =>
    t.a == 0 && t.flags.z && t.budget == -1) = true := by decide
/-- L2: wrap in the zero page -/
theorem test_lda_zpx_wraps : nextHas (step { start [0xB5, 0xFF] 4 0 [0x33] with x := 1 }) (fun t =>
    t.a == 0x33 && t.x == 1 && !t.flags.z && !t.flags.n && t.budget == 0) = true := by decide
/-- L3 -/
theorem test_lda_zpx_wraps_far : nextHas (step { start [0xB5, 0x80] 4 0x7F [0x80] with x := 0xFF })
    (fun t => t.a == 0x80 && t.flags.n && t.budget == 0) = true := by decide
/-- L4 -/
theorem test_ldx_imm : nextHas (step (start [0xA2, 0xFF] 2)) (fun t =>
    t.x == 0xFF && t.a == 0 && t.flags.n && !t.flags.z && t.budget == 0) = true := by decide
/-- L5 -/
theorem test_ldx_zp_zero : nextHas (step { start [0xA6, 0x10] 3 with x := 5 }) (fun t =>
    t.x == 0 && t.flags.z && !t.flags.n && t.budget == 0) = true := by decide
/-- L6 -/
theorem test_ldy_imm : nextHas (step (start [0xA0, 0x80] 2)) (fun t =>
    t.y == 0x80 && t.flags.n && t.budget == 0) = true := by decide
/-- L7 -/
theorem test_ldy_zp : nextHas (step (start [0xA4, 0xC0] 3 0xC0 [0x90])) (fun t =>
    t.y == 0x90 && t.flags.n && !t.flags.z && t.budget == 0) = true := by decide
/-- L8: the operand of an instruction at 0xFFFF comes from 0x0000 -/
theorem test_operand_fetch_wraps :
    nextHas (step { start [0, 0, 0, 0xA9] 2 0 [0x7F] with pc := 0xFFFF }) (fun t =>
      t.a == 0x7F && t.pc == 1 && t.budget == 0) = true := by decide
/-- S1 -/
theorem test_lsr_acc_one : nextHas (step { start [0x4A] 1 with a := 1 }) (fun t =>
    t.a == 0 && t.flags.c && t.flags.z && !t.flags.n) = true := by decide
/-- S4: the old bit 7 does not reach N -/
theorem test_lsr_acc_high : nextHas (step { start [0x4A] 1 with a := 0x80 }) (fun t =>
    t.a == 0x40 && !t.flags.c && !t.flags.z && !t.flags.n) = true := by decide
/-- S5 -/
theorem test_lsr_zp : nextHas (step (start [0x46, 0x42] 3 0x42 [0x81])) (fun t =>
    memRead 0x42 t == 0x40 && t.flags.c && !t.flags.z && !t.flags.n && t.a == 0 && t.budget == 0) = true := by
  decide
/-- S10, its first instruction, with BYTE_WRITE_COST = 1 -/
theorem test_lsr_zp_write_cost :
    nextHas (step { start [0x46, 0x42, 0x48] 5 0x42 [2] with
        config := { Config.default with byteWriteCost := 1 } }) (fun t =>
      memRead 0x42 t == 1 && !t.flags.c && t.budget == 1) = true := by decide
/-- S7 -/
theorem test_ora_imm : nextHas (step { start [0x09, 0xF0] 2 with a := 0x0F }) (fun t =>
    t.a == 0xFF && t.flags.n && !t.flags.z) = true := by decide
/-- S9 -/
theorem test_ora_zp : nextHas (step { start [0x05, 0x20] 3 0x20 [1] with a := 0x10 }) (fun t =>
    t.a == 0x11 && !t.flags.z && !t.flags.n && t.budget == 0) = true := by decide
/-- K1 -/
theorem test_pha : nextHas (step { start [0x48] 1 with a := 0x5A }) (fun t =>
    memRead 0x100 t == 0x5A && t.sp == 0xFF && t.pc == 0xFFFD && t.budget == 0) = true := by decide
/-- K2 -/
theorem test_pha_sp_wraps : nextHas (step { start [0x48] 1 with a := 0x77, sp := 0 }) (fun t =>
    memRead 0 t == 0x77 && t.sp == 0xFFFF) = true := by decide
/-- K6: the target's high byte comes from 0x0000 -/
theorem test_jsr_operand_wraps :
    nextHas (step { start [0, 0, 0x20, 0x34] 5 0 [0x12] with pc := 0xFFFE }) (fun t =>
      t.pc == 0x1234 && memRead 0x100 t == 0 && memRead 0x101 t == 0 && t.sp == 0x102 && t.budget == 0) = true := by
  decide
/-- K7: the address fault -/
theorem test_jsr_fault : nextHas (step { start [0x20, 0x00, 0x02] 10 with sp := 0xFFFF }) (fun t =>
    decide (t.fault = some (.addressOutOfRange 0x10000 0x20 0xFFFC)) && t.budget == 7 && t.pc == 0xFFFF &&
    t.sp == 0xFFFF && memRead 0xFFFF t == 0 && memRead 0 t == 0 && decide (t.events = [])) = true := by decide
/-- K11 -/
theorem test_nop : nextHas (step (start [0xEA] 1)) (fun t =>
    t.pc == 0xFFFD && t.budget == 0 && t.sp == 0x100) = true := by decide
/-- N1, its first iteration -/
theorem test_unhandled : nextHas (step (start [0x02] 5)) (fun t =>
    t.pc == 0xFFFD && t.budget == 4 && decide (t.fault = none) && t.events.length == 2) = true := by decide
/-- N2 -/
theorem test_unhandled_halt :
    nextHas (step { start [0x02] 5 with config := { Config.default with unhandledPolicy := .halt } }) (fun t =>
      t.pc == 0xFFFD && t.budget == 4 && decide (t.fault = some (.unhandledOpcodeHalt 0x02 0xFFFC)) &&
      t.events.length == 2) = true := by decide
/-- The word of an opcode-table row runs as the first instruction after reset. -/
theorem test_placed_word_runs : nextHas (step (State.reset.withFetchWord 16 0x7FA0)) (fun t =>
    t.y == 0x7F && t.pc == 0xFFFE) = true := by decide
/-- The layout of R33. -/
theorem test_packed_flags : Flags.packed { Flags.clear with n := true, z := true } false = 0x82 := by decide

/-- N6: a load past the top is reported with its first bad address. -/
theorem test_load_past_top : load 0xFFFE [1, 2, 3] State.reset = .error (.addressOutOfRange 0x10000) := by decide
/-- R173: an empty load at an address outside the address space is reported too. -/
theorem test_empty_load_outside : load 0x20000 [] State.reset = .error (.addressOutOfRange 0x20000) ∧
    load (-1) [] State.reset = .error (.addressOutOfRange (-1)) := by decide

/-! ### Witnesses: for each obligation with hypotheses, a case that meets them -/

theorem witness_DecodeOfEncodeIsTheInstruction :
    OpcodeMap.mos6502.Distinct ∧ (Instr.jsrAbs 0x4342).wf OpcodeMap.mos6502 = true ∧
      (Instr.unhandled 0xFF).wf OpcodeMap.mos6502 = true := by decide
theorem witness_EncodeOfDecodeIsTheBytes :
    decode OpcodeMap.mos6502 [0x20, 0x42, 0x43, 0xEA] = .ok (.jsrAbs 0x4342, [0xEA]) := by decide
theorem witness_OpcodeByteAloneDeterminesLength :
    OpcodeMap.mos6502.lookup 0x00 = none ∧ OpcodeMap.mos6502.lookup 0x20 = some .jsrAbs ∧
      3 ≤ ([0x42, 0x43] : List Byte).length + 1 ∧ ([0x42] : List Byte).length + 1 < 3 := by decide
theorem witness_ByteWriteChangesExactlyItsCell : (start [0xEA] 1).mem.wf = true := by decide
theorem witness_WordWriteIsLittleEndianAndChecked :
    (start [0xEA] 1).mem.wf = true ∧ (0xFFFE : Addr) ≠ 0xFFFF ∧
      (start [0xEA] 1).config.wordWriteTop = .fault ∧
      { Config.default with wordWriteTop := .wrap }.wordWriteTop = .wrap := by decide
theorem witness_CanonicalMemoryIsUnique :
    Memory.wf [(0x100, 1)] = true ∧
      ∀ a : Addr, Memory.read [(0x100, 1)] a.toNat = Memory.read (Memory.write [] 0x100 1) a.toNat :=
  ⟨by decide, fun _ => rfl⟩
theorem witness_DumpListsTheNonZeroCells : (start [0xEA] 1).mem.wf = true ∧ dump (start [0xEA] 1) ≠ [] := by
  decide
theorem witness_LsrZeroPageShiftsTheByte :
    (start [0x46, 0x42] 3 0x42 [0x81]).mem.wf = true ∧
      memRead (zext16 0x42) (start [0x46, 0x42] 3 0x42 [0x81]) = 0x81 := by decide
theorem witness_PhaPushesTheAccumulator : { start [0x48] 1 with a := 0x5A }.mem.wf = true := by decide
theorem witness_JsrCallsOrTakesTheAddressFault :
    (start [0x20, 0, 2] 5).mem.wf = true ∧ { start [0x20, 0, 2] 5 with sp := 0xFFFE }.sp ≠ 0xFFFF ∧
      { start [0x20, 0, 2] 5 with sp := 0xFFFF }.config.wordWriteTop = .fault ∧
      { start [0x20, 0, 2] 5 with
        sp := 0xFFFF, config := { Config.default with wordWriteTop := .wrap } }.config.wordWriteTop = .wrap := by
  decide
theorem witness_UnhandledOpcodeReportsItself :
    (start [2] 5).config.unhandledPolicy = .continueRun ∧
      { Config.default with unhandledPolicy := .halt }.unhandledPolicy = .halt := by decide
theorem witness_StepRunsTheDecodedInstruction :
    (start [0x20, 0x42, 0x43] 1).Ready ∧
      decode (start [0x20, 0x42, 0x43] 1).config.opcodes (bytesAtPc (start [0x20, 0x42, 0x43] 1)) =
        .ok (.jsrAbs 0x4342, []) := by decide
theorem witness_StepRunsTheEncodedInstruction :
    (start [0xA9, 0x80] 1).Ready ∧ (start [0xA9, 0x80] 1).config.opcodes.Distinct ∧
      (Instr.ldaImm 0x80).wf (start [0xA9, 0x80] 1).config.opcodes = true ∧
      encode (start [0xA9, 0x80] 1).config.opcodes (.ldaImm 0x80) <+: bytesAtPc (start [0xA9, 0x80] 1) := by
  decide
theorem witness_PlacedWordRunsNext :
    State.reset.mem.wf = true ∧ State.reset.config.opcodes = OpcodeMap.mos6502 ∧
      decodeTableWord 24 0x434220 = some (.jsrAbs 0x4342) := by decide

/-- A machine with the address fault latched, as K7 leaves it. -/
def faulted : State :=
  { start [0x20, 0, 2] 7 with
    pc := 0xFFFF, sp := 0xFFFF, fault := some (.addressOutOfRange 0x10000 0x20 0xFFFC) }

theorem witness_StepDispatchesOnlyWhenReady :
    { State.reset with resetDone := false }.resetDone = false ∧
      (faulted.resetDone = true ∧ faulted.fault ≠ none) ∧
      (State.reset.resetDone = true ∧ State.reset.fault = none ∧ State.reset.budget ≤ 0) := by decide
theorem witness_LatchedFaultLastsUntilReset :
    faulted.resetDone = true ∧ faulted.fault = some (.addressOutOfRange 0x10000 0x20 0xFFFC) := by decide
theorem witness_load_on_latched_fault : ∃ t, load 0 [1] faulted = .ok t := ⟨_, rfl⟩
theorem witness_EveryDispatchAnswersANextState : (start [0x46, 0x42] 1).Ready := by decide
theorem witness_OnlyJsrLeavesTheSequence :
    (start [0xEA] 1).Ready ∧ ∃ t, step (start [0xEA] 1) = .next t := ⟨by decide, _, rfl⟩
theorem witness_OnlyJsrLeavesTheSequence_jsr :
    (start [0x20, 0, 2] 1).Ready ∧ instrAt (start [0x20, 0, 2] 1) = .jsrAbs 0x200 ∧
      ∃ t, step (start [0x20, 0, 2] 1) = .next t := ⟨by decide, by decide, _, rfl⟩
theorem witness_RegistersWrittenAreThoseOfTheTable :
    (start [0xA2, 1] 1).Ready ∧ instrAt (start [0xA2, 1] 1) = .ldxImm 1 ∧
      ∃ t, step (start [0xA2, 1] 1) = .next t := ⟨by decide, by decide, _, rfl⟩
theorem witness_ZeroAndNegativeFollowTheResult :
    (start [0x46, 0x42] 3 0x42 [1]).Ready ∧ (start [0x46, 0x42] 3 0x42 [1]).mem.wf = true ∧
      ∃ t, step (start [0x46, 0x42] 3 0x42 [1]) = .next t := ⟨by decide, by decide, _, rfl⟩
theorem witness_YAndTheFlagsAreNeverRead : ∃ t, step (start [0x4A] 1) = .next t := ⟨_, rfl⟩
theorem witness_OnlyLdxWritesXAndOnlyLdaZpXReadsIt :
    (start [0xA6, 0x10] 3).Ready ∧ instrAt (start [0xA6, 0x10] 3) = .ldxZp 0x10 ∧
      (∀ zz, instrAt (start [0xA6, 0x10] 3) ≠ .ldaZpX zz) ∧ ∃ t, step (start [0xA6, 0x10] 3) = .next t :=
  ⟨by decide, by decide, (by decide), _, rfl⟩
theorem witness_OnlyLdxWritesXAndOnlyLdaZpXReadsIt_index :
    (start [0xB5, 0x10] 4).Ready ∧ instrAt (start [0xB5, 0x10] 4) = .ldaZpX 0x10 ∧
      ∃ t, step (start [0xB5, 0x10] 4) = .next t := ⟨by decide, by decide, _, rfl⟩
theorem witness_CarryComesOnlyFromLsr :
    { start [0x4A] 1 with a := 1 }.Ready ∧ instrAt { start [0x4A] 1 with a := 1 } = .lsrAcc ∧
      ∃ t, step { start [0x4A] 1 with a := 1 } = .next t := ⟨by decide, by decide, _, rfl⟩
theorem witness_ParametersNeverChange :
    (∃ t, step (start [0xEA] 1) = .next t) ∧ (∃ t, load 0 [1] State.reset = .ok t) ∧
      ∃ r, execute 1 State.reset = .ok r := ⟨⟨_, rfl⟩, ⟨_, rfl⟩, _, rfl⟩
theorem witness_IterationEmitsItsEvents :
    (start [2] 5).Ready ∧ instrAt (start [2] 5) = .unhandled 2 ∧ ∃ t, step (start [2] 5) = .next t :=
  ⟨by decide, by decide, _, rfl⟩
theorem witness_LaterFetchSeesTheStore_lsr :
    { start [] 1 0x10 [0x46, 0x12, 0x94] with pc := 0x10 }.mem.wf = true ∧
      ∃ t, exec (.lsrZp 0x12) { start [] 1 0x10 [0x46, 0x12, 0x94] with pc := 0x10 } = .next t ∧
        t.pc = zext16 0x12 := ⟨by decide, _, rfl, by decide⟩
theorem witness_LaterFetchSeesTheStore_pha :
    { start [0x48] 1 with sp := 0xFFFD, a := 0x4A }.mem.wf = true ∧
      ∃ t, exec .pha { start [0x48] 1 with sp := 0xFFFD, a := 0x4A } = .next t ∧ t.pc = 0xFFFD :=
  ⟨by decide, _, rfl, by decide⟩
theorem witness_LaterFetchSeesTheStore_jsr :
    (start [0x20, 0, 1] 1).mem.wf = true ∧
      ((start [0x20, 0, 1] 1).sp ≠ 0xFFFF ∨ (start [0x20, 0, 1] 1).config.wordWriteTop = .wrap) ∧
      (∃ t, exec (.jsrAbs 0x100) (start [0x20, 0, 1] 1) = .next t ∧ t.pc = (start [0x20, 0, 1] 1).sp) ∧
      ∃ t, exec (.jsrAbs 0x101) (start [0x20, 1, 1] 1) = .next t ∧ t.pc = (start [0x20, 1, 1] 1).sp + 1 :=
  ⟨by decide, by decide, ⟨_, rfl, by decide⟩, _, rfl, by decide⟩
theorem witness_JsrOverwritesThePushedByte :
    (start [0x48, 0x20, 0, 2] 6).mem.wf = true ∧
      ((start [0x48, 0x20, 0, 2] 6).sp ≠ 0 ∨ (start [0x48, 0x20, 0, 2] 6).config.wordWriteTop = .wrap) ∧
      ∃ t, exec .pha (start [0x48, 0x20, 0, 2] 6) = .next t ∧ ∃ u, exec (.jsrAbs 0x200) t = .next u :=
  ⟨by decide, by decide, _, rfl, _, rfl⟩
theorem witness_FaultsComeOnlyFromTheirCauses_address :
    { start [0x20, 0, 2] 10 with sp := 0xFFFF }.Ready ∧
      ∃ t, step { start [0x20, 0, 2] 10 with sp := 0xFFFF } = .next t ∧
        t.fault = some (.addressOutOfRange 0x10000 0x20 0xFFFC) := ⟨by decide, _, rfl, by decide⟩
theorem witness_FaultsComeOnlyFromTheirCauses_halt :
    { start [2] 5 with config := { Config.default with unhandledPolicy := .halt } }.Ready ∧
      ∃ t, step { start [2] 5 with config := { Config.default with unhandledPolicy := .halt } } = .next t ∧
        t.fault = some (.unhandledOpcodeHalt 2 0xFFFC) := ⟨by decide, _, rfl, by decide⟩
theorem witness_StepKeepsTheInvariant :
    (start [0x48] 1).Inv ∧ ∃ t, step (start [0x48] 1) = .next t := ⟨⟨by decide, trivial⟩, _, rfl⟩
theorem witness_invariant_with_latched_fault : faulted.Inv :=
  ⟨by decide, by decide, by decide, by decide, by decide, by decide⟩
theorem witness_LoadWritesExactlyItsBytes :
    State.reset.mem.wf = true ∧ 0xFFFE ≤ 0xFFFF ∧ 0xFFFE + ([1, 2] : List Byte).length ≤ 0x10000 := by decide
/-- N6 is the third case. -/
theorem witness_LoadOutOfRangeIsReported :
    ((-1 : Int) < 0 ∨ (0xFFFF : Int) < -1) ∧
      (0xFFFF : Int) < 0x10000 ∧
      ((0 : Int) ≤ 0xFFFE ∧ (0xFFFE : Int) ≤ 0xFFFF ∧
        (0xFFFF : Int) < 0xFFFE + ([1, 2, 3] : List Byte).length - 1) := by decide
theorem witness_RegistersAndFlagsAreRefusedBeforeReset :
    (State.powerOn State.reset.snapshot Config.default).resetDone = false ∧ State.reset.resetDone = true := by
  decide
theorem witness_ExecuteWithoutBudgetDoesNoWork :
    (-3 : Int) ≤ 0 ∧ State.reset.resetDone = true ∧ State.reset.fault = none := by decide
theorem witness_ExecuteOneRunsOneInstruction :
    (start [0xEA] 0).resetDone = true ∧ (start [0xEA] 0).fault = none := by decide
theorem witness_ExecuteEndsExhaustedOrFaulted :
    State.reset.resetDone = true ∧ State.reset.fault = none := by decide
/-- K12: the largest overshoot. -/
theorem witness_ExecuteOvershootIsBounded :
    (0 : Int) < 1 ∧ (start [0x20, 0, 2] 0).resetDone = true ∧ (start [0x20, 0, 2] 0).fault = none ∧
      ∃ r, execute 1 (start [0x20, 0, 2] 0) = .ok r ∧ r.status = .exhausted ∧ r.budget = -4 :=
  ⟨by decide, by decide, by decide, _, rfl, by decide, by decide⟩
theorem witness_LoopEndsWithinItsBudget : (5 : Int) ≤ (7 : Nat) := by decide
theorem witness_ExecuteKeepsTheInvariant :
    State.reset.Inv ∧ ∃ r, execute 1 State.reset = .ok r := ⟨⟨by decide, trivial⟩, _, rfl⟩

end Sys2Proof.Tests
end

section
/-! PROOFS of 00_scope.md. What every instruction does as one equation each, what one iteration of the loop does
whatever the instruction, and from these the parameters' constancy and the overshoot bound of a call. -/

namespace Sys2Proof.Machine

/-! ### The operand fetches, counted from the opcode's fetch on (R46, R47, R63 to R68) -/

theorem immediate_after_opcode (s : State) :
    immediate (fetchByte s).2 = { s with pc := s.pc + 2, budget := s.budget - 2 } := by
  rw [← pc_after_byte, show s.budget - 2 = s.budget - 1 - 1 by omega]
  rfl

theorem readZeroPage_after_opcode (zz : Byte) (s : State) :
    readZeroPage zz (fetchByte s).2 =
      (memRead (zext16 zz) s, { s with pc := s.pc + 2, budget := s.budget - 3 }) := by
  rw [← pc_after_byte, show s.budget - 3 = s.budget - 1 - 1 - 1 by omega]
  rfl

theorem readZeroPageX_after_opcode (zz : Byte) (s : State) :
    readZeroPageX zz (fetchByte s).2 =
      (memRead (zext16 (zz + s.x)) s, { s with pc := s.pc + 2, budget := s.budget - 4 }) := by
  rw [← pc_after_byte, show s.budget - 4 = s.budget - 1 - 1 - 1 - 1 by omega]
  rfl

theorem absolute_after_opcode (s : State) :
    absolute (fetchByte s).2 = { s with pc := s.pc + 3, budget := s.budget - 3 } := by
  rw [← pc_after_word, show s.budget - 3 = s.budget - 1 - 2 by omega]
  rfl

/-! ### One equation per instruction: its whole iteration (R82 to R86, R101 to R143) -/

@[simp] theorem fetchByte_a (s : State) : (fetchByte s).2.a = s.a := rfl

theorem exec_ldaImm (imm : Byte) (s : State) :
    exec (.ldaImm imm) s = .next (retire s.config.opcodes.ldaImm s.pc
      (loadA imm { s with pc := s.pc + 2, budget := s.budget - 2 })) := by
  simp only [exec, execLdaImm, handle, immediate_after_opcode, OpcodeMap.code]

theorem exec_ldaZp (zz : Byte) (s : State) :
    exec (.ldaZp zz) s = .next (retire s.config.opcodes.ldaZp s.pc
      (loadA (memRead (zext16 zz) s) { s with pc := s.pc + 2, budget := s.budget - 3 })) := by
  simp only [exec, execLdaZp, handle, readZeroPage_after_opcode, OpcodeMap.code]

theorem exec_ldaZpX (zz : Byte) (s : State) :
    exec (.ldaZpX zz) s = .next (retire s.config.opcodes.ldaZpX s.pc
      (loadA (memRead (zext16 (zz + s.x)) s) { s with pc := s.pc + 2, budget := s.budget - 4 })) := by
  simp only [exec, execLdaZpX, handle, readZeroPageX_after_opcode, OpcodeMap.code]

theorem exec_ldxImm (imm : Byte) (s : State) :
    exec (.ldxImm imm) s = .next (retire s.config.opcodes.ldxImm s.pc
      (loadX imm { s with pc := s.pc + 2, budget := s.budget - 2 })) := by
  simp only [exec, execLdxImm, handle, immediate_after_opcode, OpcodeMap.code]

theorem exec_ldxZp (zz : Byte) (s : State) :
    exec (.ldxZp zz) s = .next (retire s.config.opcodes.ldxZp s.pc
      (loadX (memRead (zext16 zz) s) { s with pc := s.pc + 2, budget := s.budget - 3 })) := by
  simp only [exec, execLdxZp, handle, readZeroPage_after_opcode, OpcodeMap.code]

theorem exec_ldyImm (imm : Byte) (s : State) :
    exec (.ldyImm imm) s = .next (retire s.config.opcodes.ldyImm s.pc
      (loadY imm { s with pc := s.pc + 2, budget := s.budget - 2 })) := by
  simp only [exec, execLdyImm, handle, immediate_after_opcode, OpcodeMap.code]

theorem exec_ldyZp (zz : Byte) (s : State) :
    exec (.ldyZp zz) s = .next (retire s.config.opcodes.ldyZp s.pc
      (loadY (memRead (zext16 zz) s) { s with pc := s.pc + 2, budget := s.budget - 3 })) := by
  simp only [exec, execLdyZp, handle, readZeroPage_after_opcode, OpcodeMap.code]

theorem exec_lsrAcc (s : State) :
    exec .lsrAcc s = .next (retire s.config.opcodes.lsrAcc s.pc
      (setShiftFlags s.a { s with a := s.a >>> 1, pc := s.pc + 1, budget := s.budget - 1 })) := rfl

theorem exec_lsrZp (zz : Byte) (s : State) :
    exec (.lsrZp zz) s = .next (retire s.config.opcodes.lsrZp s.pc
      (setShiftFlags (memRead (zext16 zz) s) (memWrite (zext16 zz) (memRead (zext16 zz) s >>> 1)
        { s with pc := s.pc + 2, budget := s.budget - 3 }))) := by
  simp only [exec, execLsrZp, handle, readZeroPage_after_opcode, zeroPage, OpcodeMap.code]

theorem exec_oraImm (imm : Byte) (s : State) :
    exec (.oraImm imm) s = .next (retire s.config.opcodes.oraImm s.pc
      (loadA (s.a ||| imm) { s with pc := s.pc + 2, budget := s.budget - 2 })) := by
  simp only [exec, execOraImm, handle, immediate_after_opcode, fetchByte_a, OpcodeMap.code]

theorem exec_oraZp (zz : Byte) (s : State) :
    exec (.oraZp zz) s = .next (retire s.config.opcodes.oraZp s.pc
      (loadA (s.a ||| memRead (zext16 zz) s) { s with pc := s.pc + 2, budget := s.budget - 3 })) := by
  simp only [exec, execOraZp, handle, readZeroPage_after_opcode, fetchByte_a, OpcodeMap.code]

theorem exec_pha (s : State) :
    exec .pha s = .next (retire s.config.opcodes.pha s.pc
      ((memWrite s.sp s.a { s with pc := s.pc + 1, budget := s.budget - 1 }).setSp (s.sp - 1))) := rfl

/-- JSR after its three bytes are fetched (R142): the address fault with nothing more done, or the return address
stored and the jump made. -/
theorem exec_jsrAbs_cases (target : Addr) (s : State) :
    (s.sp = 0xFFFF ∧ s.config.wordWriteTop = .fault ∧
      exec (.jsrAbs target) s = .next (takeAddressFault 0x10000 s.config.opcodes.jsrAbs s.pc
        { s with pc := s.pc + 3, budget := s.budget - 3 })) ∨
    ((s.sp ≠ 0xFFFF ∨ s.config.wordWriteTop = .wrap) ∧
      exec (.jsrAbs target) s = .next (retire s.config.opcodes.jsrAbs s.pc { s with
        mem := (s.mem.write s.sp.toNat (lowByte (s.pc + 2))).write (s.sp + 1).toNat (highByte (s.pc + 2))
        sp := s.sp + 2, pc := target, budget := s.budget - 5 })) := by
  rw [exec, execJsrAbs, handle, absolute_after_opcode]
  rcases callTarget_cases target { s with pc := s.pc + 3, budget := s.budget - 3 } with
    ⟨hsp, htop, hcall⟩ | ⟨hok, hcall⟩
  · exact .inl ⟨hsp, htop, by rw [hcall]; rfl⟩
  · refine .inr ⟨hok, ?_⟩
    rw [hcall, show s.budget - 5 = s.budget - 3 - 2 by omega, ← return_addr s.pc]
    rfl

theorem exec_nop (s : State) :
    exec .nop s = .next (retire s.config.opcodes.nop s.pc
      { s with pc := s.pc + 1, budget := s.budget - 1 }) := rfl

theorem exec_unhandled (op : Byte) (s : State) :
    exec (.unhandled op) s = .next (applyUnhandledPolicy op s.pc (retire op s.pc
      { s with pc := s.pc + 1, budget := s.budget - 1,
               events := s.events ++ [.unhandledOpcode op s.pc] })) := rfl

/-! ### The cost table and the count of retired opcodes -/

theorem one_le_costOf (c : Config) (i : Instr) : 1 ≤ costOf c i := by
  cases i <;> simp only [costOf] <;> omega

theorem costOf_le_maxCost (c : Config) (i : Instr) : costOf c i ≤ maxCost c := by
  cases i <;> simp only [costOf, maxCost] <;> omega

theorem five_le_maxCost (c : Config) : 5 ≤ maxCost c := Nat.le_max_left ..

theorem retiredCount_append (es es' : List Event) :
    retiredCount (es ++ es') = retiredCount es + retiredCount es' := by
  induction es with
  | nil => simp [retiredCount]
  | cons e es ih =>
    cases e with
    | retired => simp [retiredCount, ih]; omega
    | unhandledOpcode => simp [retiredCount, ih]

/-! ### One iteration of the loop, whatever the instruction -/

/-- What the loop needs to know of an iteration from s to t: the parameters and the reset-done flag stay, the charge
is at least 1 (R85, R90) and at most the largest cost (R88), and at most one opcode retires (R86). -/
structure Iterates (s t : State) : Prop where
  config : t.config = s.config
  resetDone : t.resetDone = s.resetDone
  charges : t.budget + 1 ≤ s.budget
  costs : s.budget - maxCost s.config ≤ t.budget
  retires : retiredCount t.events ≤ retiredCount s.events + 1

/-- Retiring, in a state in which the instruction has been charged by the cost table and has emitted no Retired
event yet, ends an iteration. -/
theorem iterates_retire (i : Instr) {s u : State} {op : Byte} (hc : u.config = s.config)
    (hr : u.resetDone = s.resetDone) (hb : u.budget = s.budget - costOf s.config i)
    (he : retiredCount u.events = retiredCount s.events) : Iterates s (retire op s.pc u) := by
  have hpos := one_le_costOf s.config i
  have hmax := costOf_le_maxCost s.config i
  rw [retire_eq]
  refine ⟨hc, hr, ?_, ?_, ?_⟩
  · change u.budget + 1 ≤ _
    omega
  · change _ ≤ u.budget
    omega
  · simp [retiredCount_append, he, retiredCount]

/-- The policy for unhandled opcodes sets at most the latch, which an iteration may set (R91). -/
theorem iterates_applyUnhandledPolicy {s t : State} (op : Byte) (opAddr : Addr) (h : Iterates s t) :
    Iterates s (applyUnhandledPolicy op opAddr t) := by
  rw [applyUnhandledPolicy_eq]
  split
  · exact ⟨h.config, h.resetDone, h.charges, h.costs, h.retires⟩
  · exact h

/-- Every instruction's meaning is an iteration to a next state: none faults or is refused itself. -/
theorem exec_iterates (i : Instr) (s : State) : ∃ t, exec i s = .next t ∧ Iterates s t := by
  cases i with
  | ldaImm imm => exact ⟨_, exec_ldaImm imm s, iterates_retire (.ldaImm imm) rfl rfl rfl rfl⟩
  | ldaZp zz => exact ⟨_, exec_ldaZp zz s, iterates_retire (.ldaZp zz) rfl rfl rfl rfl⟩
  | ldaZpX zz => exact ⟨_, exec_ldaZpX zz s, iterates_retire (.ldaZpX zz) rfl rfl rfl rfl⟩
  | ldxImm imm => exact ⟨_, exec_ldxImm imm s, iterates_retire (.ldxImm imm) rfl rfl rfl rfl⟩
  | ldxZp zz => exact ⟨_, exec_ldxZp zz s, iterates_retire (.ldxZp zz) rfl rfl rfl rfl⟩
  | ldyImm imm => exact ⟨_, exec_ldyImm imm s, iterates_retire (.ldyImm imm) rfl rfl rfl rfl⟩
  | ldyZp zz => exact ⟨_, exec_ldyZp zz s, iterates_retire (.ldyZp zz) rfl rfl rfl rfl⟩
  | lsrAcc => exact ⟨_, exec_lsrAcc s, iterates_retire .lsrAcc rfl rfl rfl rfl⟩
  | lsrZp zz =>
    refine ⟨_, exec_lsrZp zz s, iterates_retire (.lsrZp zz) rfl rfl ?_ rfl⟩
    rw [setShiftFlags_eq, memWrite_eq]
    simp only [costOf]
    omega
  | oraImm imm => exact ⟨_, exec_oraImm imm s, iterates_retire (.oraImm imm) rfl rfl rfl rfl⟩
  | oraZp zz => exact ⟨_, exec_oraZp zz s, iterates_retire (.oraZp zz) rfl rfl rfl rfl⟩
  | pha =>
    refine ⟨_, exec_pha s, iterates_retire .pha rfl rfl ?_ rfl⟩
    rw [memWrite_eq, State.setSp_budget]
    simp only [costOf]
    omega
  | jsrAbs target =>
    rcases exec_jsrAbs_cases target s with ⟨-, -, hexec⟩ | ⟨-, hexec⟩
    · have hmax := five_le_maxCost s.config
      refine ⟨_, hexec, ?_⟩
      rw [takeAddressFault_eq]
      exact ⟨rfl, rfl, by dsimp only; omega, by dsimp only; omega, Nat.le_succ _⟩
    · exact ⟨_, hexec, iterates_retire (.jsrAbs target) rfl rfl rfl rfl⟩
  | nop => exact ⟨_, exec_nop s, iterates_retire .nop rfl rfl rfl rfl⟩
  | unhandled op =>
    refine ⟨_, exec_unhandled op s, iterates_applyUnhandledPolicy op s.pc ?_⟩
    exact iterates_retire (.unhandled op) rfl rfl rfl (by simp [retiredCount_append, retiredCount])

/-- A pass of the loop that answers a next state is idle or is an iteration. -/
theorem step_next_iterates {s t : State} (h : step s = .next t) :
    (s.budget ≤ 0 ∧ t = s) ∨ (0 < s.budget ∧ Iterates s t) := by
  obtain ⟨-, -, hidle | ⟨hpos, hexec⟩⟩ := step_next_cases h
  · exact .inl hidle
  · obtain ⟨t', ht', hit⟩ := exec_iterates (instrAt s) s
    cases hexec.symm.trans ht'
    exact .inr ⟨hpos, hit⟩

/-- With no budget left a pass is idle (R81). -/
theorem step_of_no_budget {s : State} (hr : s.resetDone = true) (hf : s.fault = none) (hb : s.budget ≤ 0) :
    step s = .next s := by
  simp [step, iterate, hr, hf, hb]

/-- With reset done and no fault latched, a pass answers a next state (R80, R81). -/
theorem step_next_of_no_fault {s : State} (hr : s.resetDone = true) (hf : s.fault = none) :
    ∃ t, step s = .next t := by
  by_cases hb : s.budget ≤ 0
  · exact ⟨s, step_of_no_budget hr hf hb⟩
  · obtain ⟨t, ht, -⟩ := exec_iterates (instrAt s) s
    exact ⟨t, (step_of_ready ⟨hr, hf, by omega⟩).trans ht⟩

/-! ### The parameters (R7, R73) -/

theorem step_config {s t : State} (h : step s = .next t) : t.config = s.config := by
  rcases step_next_iterates h with ⟨-, rfl⟩ | ⟨-, hit⟩
  · rfl
  · exact hit.config

theorem runCall_config (n : Nat) (s : State) : (runCall n s).config = s.config :=
  runCall_keeps (P := fun t => t.config = s.config) (fun _ _ ht h => (step_config h).trans ht) n rfl

theorem execute_config {b0 : Int} {s : State} {r : ExecuteResult} (h : execute b0 s = .ok r) :
    r.state.config = s.config := by
  obtain ⟨-, ⟨f, -, rfl⟩ | ⟨-, t, rfl, rfl⟩⟩ := execute_ok_cases h
  · rfl
  · exact runCall_config _ (beginCall b0 s)

theorem load_config {address : Int} {bytes : List Byte} {s t : State}
    (h : load address bytes s = .ok t) : t.config = s.config := by
  rcases load_cases h with ⟨-, hok⟩ | ⟨bad, -, herr⟩
  · cases hok
    rfl
  · cases herr

/-- Settles O34: a step is idle or an iteration, a call is a run of steps, and load and reset write other fields. -/
theorem parametersNeverChange : Obligations.ParametersNeverChange := by
  intro s t
  exact ⟨step_config, fun _ _ => load_config, fun _ _ => execute_config, rfl⟩

/-! ### The overshoot of a call (R8, R90) -/

/-- The loop's invariant in a call of execute(b0) with parameters c. An iteration starts only with budget left, so
the budget falls below 1 by less than one instruction's cost; and as each one costs a unit, the opcodes retired and the
budget still left together stay within b0. -/
structure WithinBudget (b0 : Int) (c : Config) (s : State) : Prop where
  config : s.config = c
  overshoot : 1 - (maxCost c : Int) ≤ s.budget
  retired : retiredCount s.events + max s.budget 0 ≤ b0

theorem withinBudget_beginCall {b0 : Int} (hb : 0 < b0) (s : State) :
    WithinBudget b0 s.config (beginCall b0 s) where
  config := rfl
  overshoot := by
    have hmax := five_le_maxCost s.config
    change _ ≤ b0
    omega
  retired := by
    change ((0 : Nat) : Int) + max b0 0 ≤ b0
    omega

theorem step_keeps_withinBudget {b0 : Int} {c : Config} (s t : State) (hs : WithinBudget b0 c s)
    (h : step s = .next t) : WithinBudget b0 c t := by
  rcases step_next_iterates h with ⟨-, rfl⟩ | ⟨hpos, hit⟩
  · exact hs
  · obtain ⟨rfl, -, hretired⟩ := hs
    obtain ⟨hconfig, -, hcharges, hcosts, hretires⟩ := hit
    exact ⟨hconfig, by omega, by omega⟩

theorem runCall_succ_of_next {s t : State} (h : step s = .next t) (n : Nat) :
    runCall (n + 1) s = runCall n t := by
  simp [runCall, h]

/-- With a fault latched the loop does no pass (R80). -/
theorem runCall_of_latched {s : State} {f : Fault} (h : s.fault = some f) (n : Nat) : runCall n s = s := by
  cases n with
  | zero => rfl
  | succ n =>
    unfold runCall
    cases hs : step s with
    | next t =>
      obtain ⟨-, hnone, -⟩ := step_next_cases hs
      cases h.symm.trans hnone
    | fault f => rfl
    | refused r => rfl

/-- As many passes as there is budget end the loop (R90): a state they leave without a fault has none left. -/
theorem budget_runCall_nonpos {n : Nat} {s : State} (hr : s.resetDone = true) (hb : s.budget ≤ n)
    (hf : (runCall n s).fault = none) : (runCall n s).budget ≤ 0 := by
  induction n generalizing s with
  | zero => exact hb
  | succ n ih =>
    cases hlatch : s.fault with
    | some f =>
      rw [runCall_of_latched hlatch] at hf
      cases hlatch.symm.trans hf
    | none =>
      obtain ⟨t, ht⟩ := step_next_of_no_fault hr hlatch
      rw [runCall_succ_of_next ht] at hf ⊢
      rcases step_next_iterates ht with ⟨hidle, rfl⟩ | ⟨-, hit⟩
      · exact ih hr (by omega) hf
      · have hcharges := hit.charges
        exact ih (hit.resetDone.trans hr) (by omega) hf

theorem statusOf_eq_exhausted {s : State} : statusOf s = .exhausted ↔ s.fault = none := by
  unfold statusOf
  cases s.fault <;> simp

/-- Settles O49: the invariant holds when the call begins and every pass keeps it, and b0 passes end the loop. -/
theorem executeOvershootIsBounded : Obligations.ExecuteOvershootIsBounded := by
  intro b0 s r hb hreset hfault h
  obtain ⟨-, ⟨f, hlatched, -⟩ | ⟨-, t, rfl, rfl⟩⟩ := execute_ok_cases h
  · rw [hfault] at hlatched
    cases hlatched
  · obtain ⟨-, hovershoot, hretired⟩ :=
      runCall_keeps step_keeps_withinBudget b0.toNat (withinBudget_beginCall hb s)
    have hpasses : (beginCall b0 s).budget ≤ b0.toNat := Int.self_le_toNat b0
    refine ⟨hovershoot, fun hexhausted => ?_, ?_⟩
    · exact budget_runCall_nonpos hreset hpasses (statusOf_eq_exhausted.1 hexhausted)
    · dsimp only
      omega

/-! ### Reset (R39, R180, R181) -/

/-- Settles O42: reset sets every field but the parameters, and with no cell listed every address reads as 0. -/
theorem resetLeavesTheCanonicalState : Obligations.ResetLeavesTheCanonicalState := by
  intro s
  exact ⟨⟨rfl, rfl, rfl, rfl, rfl⟩, rfl, fun a => memRead_nil a _ rfl, rfl, rfl, rfl, rfl⟩

end Sys2Proof.Machine
end

section
/-! PROOFS of 10_state.md. The state that an iteration leaves, written as a function of the instruction and the state
before it: what each instruction writes is read off that function, and two iterations that begin with different X, Y
and flags are compared along it. Then what the loop and the host's calls answer where nothing is dispatched. -/

namespace Sys2Proof.Machine

/-! ### The state an iteration leaves -/

/-- The state with an instruction's bytes fetched and its reads charged: PC past it, the budget down. -/
def State.past (bytes : Addr) (cost : Int) (s : State) : State :=
  { s with pc := s.pc + bytes, budget := s.budget - cost }

/-- The state in which an instruction that runs to its end retires (R101 to R107, R120 to R123, R141 to R143, R84). -/
def completed (s : State) : Instr → State
  | .ldaImm imm => loadA imm (s.past 2 2)
  | .ldaZp zz => loadA (memRead (zext16 zz) s) (s.past 2 3)
  | .ldaZpX zz => loadA (memRead (zext16 (zz + s.x)) s) (s.past 2 4)
  | .ldxImm imm => loadX imm (s.past 2 2)
  | .ldxZp zz => loadX (memRead (zext16 zz) s) (s.past 2 3)
  | .ldyImm imm => loadY imm (s.past 2 2)
  | .ldyZp zz => loadY (memRead (zext16 zz) s) (s.past 2 3)
  | .lsrAcc => setShiftFlags s.a ((s.past 1 1).setA (s.a >>> 1))
  | .lsrZp zz =>
    setShiftFlags (memRead (zext16 zz) s)
      (memWrite (zext16 zz) (memRead (zext16 zz) s >>> 1) (s.past 2 3))
  | .oraImm imm => loadA (s.a ||| imm) (s.past 2 2)
  | .oraZp zz => loadA (s.a ||| memRead (zext16 zz) s) (s.past 2 3)
  | .pha => (memWrite s.sp s.a (s.past 1 1)).setSp (s.sp - 1)
  | .jsrAbs target =>
    { s with
      mem := (s.mem.write s.sp.toNat (lowByte (s.pc + 2))).write (s.sp + 1).toNat (highByte (s.pc + 2))
      sp := s.sp + 2, pc := target, budget := s.budget - 5 }
  | .nop => s.past 1 1
  | .unhandled op => (s.past 1 1).emit (.unhandledOpcode op s.pc)

/-- The opcode byte of an instruction, the first of its encoding (R60). -/
def opcodeOf (m : OpcodeMap) (i : Instr) : Byte := (encode m i).headD 0

/-- A completed instruction with its Retired event emitted (R86). -/
def retired (i : Instr) (s : State) : State :=
  retire (opcodeOf s.config.opcodes i) s.pc (completed s i)

/-- The one case in which an instruction does not run to its end: JSR's word write raises (R44, R142). -/
abbrev State.WordWriteRaises (s : State) : Prop :=
  s.sp = 0xFFFF ∧ s.config.wordWriteTop = .fault

/-- The state an iteration leaves: the instruction has retired, but a JSR may have taken the address fault (R165),
and after an unhandled opcode the policy may have set the latch (R91). -/
def execResult (s : State) : Instr → State
  | .jsrAbs target =>
    if s.WordWriteRaises then
      takeAddressFault 0x10000 s.config.opcodes.jsrAbs s.pc (s.past 3 3)
    else retired (.jsrAbs target) s
  | .unhandled op =>
    { retired (.unhandled op) s with
      fault := if s.config.unhandledPolicy = .halt then some (.unhandledOpcodeHalt op s.pc) else s.fault }
  | i => retired i s

/-- The policy for unhandled opcodes writes the latch alone (R91). -/
theorem applyUnhandledPolicy_writes_fault (op : Byte) (opAddr : Addr) (s : State) :
    applyUnhandledPolicy op opAddr s = { s with
      fault := if s.config.unhandledPolicy = .halt then some (.unhandledOpcodeHalt op opAddr) else s.fault } := by
  rw [applyUnhandledPolicy_eq]
  split <;> rfl

/-- The function is the model's: every instruction's meaning answers it. -/
theorem exec_eq_execResult (i : Instr) (s : State) : exec i s = .next (execResult s i) := by
  cases i with
  | ldaImm imm => exact exec_ldaImm imm s
  | ldaZp zz => exact exec_ldaZp zz s
  | ldaZpX zz => exact exec_ldaZpX zz s
  | ldxImm imm => exact exec_ldxImm imm s
  | ldxZp zz => exact exec_ldxZp zz s
  | ldyImm imm => exact exec_ldyImm imm s
  | ldyZp zz => exact exec_ldyZp zz s
  | lsrAcc => exact exec_lsrAcc s
  | lsrZp zz => exact exec_lsrZp zz s
  | oraImm imm => exact exec_oraImm imm s
  | oraZp zz => exact exec_oraZp zz s
  | pha => exact exec_pha s
  | jsrAbs target =>
    rw [execResult]
    rcases exec_jsrAbs_cases target s with ⟨hsp, htop, hexec⟩ | ⟨hok, hexec⟩
    · rw [if_pos ⟨hsp, htop⟩]
      exact hexec
    · rw [if_neg (by rintro ⟨hsp, htop⟩; simp [hsp, htop] at hok)]
      exact hexec
  | nop => exact exec_nop s
  | unhandled op =>
    rw [exec_unhandled, applyUnhandledPolicy_writes_fault]
    rfl

theorem step_eq_execResult {s : State} (h : s.Ready) : step s = .next (execResult s (instrAt s)) :=
  (step_of_ready h).trans (exec_eq_execResult _ s)

/-- A step of a ready machine leaves the state the function gives for the instruction at PC. -/
theorem eq_execResult_of_step {s t : State} (h : s.Ready) (hstep : step s = .next t) :
    t = execResult s (instrAt s) :=
  Host.Outcome.next.inj (hstep.symm.trans (step_eq_execResult h))

/-- The two ways a JSR ends (R142, R165). -/
theorem execResult_jsrAbs_cases (target : Addr) (s : State) :
    (s.WordWriteRaises ∧ execResult s (.jsrAbs target) =
      takeAddressFault 0x10000 s.config.opcodes.jsrAbs s.pc (s.past 3 3)) ∨
    (¬ s.WordWriteRaises ∧ execResult s (.jsrAbs target) = retired (.jsrAbs target) s) := by
  by_cases h : s.WordWriteRaises
  · exact .inl ⟨h, if_pos h⟩
  · exact .inr ⟨h, if_neg h⟩

/-! ### What an iteration writes (R21 to R30, R144) -/

/-- Settles O29: only a JSR's completed state has another PC than the one past the instruction, and a ready machine's
latch is empty, so that the latch tells the JSR's two endings apart. -/
theorem onlyJsrLeavesTheSequence : Obligations.OnlyJsrLeavesTheSequence := by
  intro s t hready hstep
  obtain ⟨-, hfault, -⟩ := id hready
  rw [eq_execResult_of_step hready hstep]
  cases instrAt s with
  | jsrAbs target =>
    rcases execResult_jsrAbs_cases target s with ⟨-, hraised⟩ | ⟨-, hdone⟩
    · rw [hraised]
      exact (if_neg (Option.some_ne_none _)).symm
    · rw [hdone]
      exact (if_pos hfault).symm
  | _ => rfl

/-- Settles O30: each instruction's state is the one before it with the fields of its row written. -/
theorem registersWrittenAreThoseOfTheTable : Obligations.RegistersWrittenAreThoseOfTheTable := by
  intro s t hready hstep
  rw [eq_execResult_of_step hready hstep]
  cases instrAt s with
  | jsrAbs target =>
    rcases execResult_jsrAbs_cases target s with ⟨-, hraised⟩ | ⟨-, hdone⟩
    · rw [hraised]
      exact ⟨⟨rfl, rfl, rfl, rfl⟩, rfl⟩
    · rw [hdone]
      exact ⟨⟨rfl, rfl, rfl, rfl⟩, rfl⟩
  | _ => exact ⟨⟨rfl, rfl, rfl, rfl⟩, rfl⟩

/-- A JSR, completed or faulted, leaves every flag. -/
theorem execResult_jsrAbs_flags (target : Addr) (s : State) :
    (execResult s (.jsrAbs target)).flags = s.flags := by
  rcases execResult_jsrAbs_cases target s with ⟨-, h⟩ | ⟨-, h⟩ <;> rw [h] <;> rfl

theorem execResult_jsrAbs_x (target : Addr) (s : State) : (execResult s (.jsrAbs target)).x = s.x := by
  rcases execResult_jsrAbs_cases target s with ⟨-, h⟩ | ⟨-, h⟩ <;> rw [h] <;> rfl

/-- R120, R121: LSR's N is 0, which is bit 7 of its result. -/
theorem msb_shiftRight_one (v : Byte) : (v >>> 1).msb = false := by
  simp [BitVec.msb_ushiftRight]

/-- R121: the byte LSR zero page leaves in memory. -/
theorem memRead_execResult_lsrZp {s : State} (hwf : s.mem.wf = true) (zz : Byte) :
    memRead (zext16 zz) (execResult s (.lsrZp zz)) = memRead (zext16 zz) s >>> 1 := by
  have hmem : (execResult s (.lsrZp zz)).mem =
      (setByte (zext16 zz) (memRead (zext16 zz) s >>> 1) s).mem := rfl
  rw [memRead_congr hmem, memRead_setByte hwf, if_pos rfl]

/-- Settles O31: loads and ORA set Z and N from the byte they put into the register, LSR from the byte it shifted. -/
theorem zeroAndNegativeFollowTheResult : Obligations.ZeroAndNegativeFollowTheResult := by
  intro s t hready hwf hstep
  rw [eq_execResult_of_step hready hstep]
  cases instrAt s with
  | lsrAcc => exact ⟨rfl, (msb_shiftRight_one _).symm⟩
  | lsrZp zz =>
    dsimp only
    rw [memRead_execResult_lsrZp hwf, msb_shiftRight_one]
    exact ⟨rfl, rfl⟩
  | jsrAbs target => exact execResult_jsrAbs_flags target s
  | pha => rfl
  | nop => rfl
  | unhandled op => rfl
  | _ => exact ⟨rfl, rfl⟩

/-! ### Two iterations that begin with different X, Y and flags (R22, R23, R28 to R30) -/

/-- The same machine with other values in X, Y and the flags. -/
def State.vary (x y : Byte) (f : Flags) (s : State) : State := { s with x := x, y := y, flags := f }

theorem WrittenOrKept.kept {α : Type} {b b' : α} : WrittenOrKept b b' b b' := .inr ⟨rfl, rfl⟩

theorem WrittenOrKept.written {α : Type} {b b' a : α} : WrittenOrKept b b' a a := .inl rfl

/-- Where both runs began with one value they end with one value. -/
theorem WrittenOrKept.eq_of_same {α : Type} {b a a' : α} (h : WrittenOrKept b b a a') : a' = a := by
  rcases h with h | ⟨h', h⟩
  · exact h
  · rw [h', h]

/-- Each flag of two runs is written without being read, or kept. -/
structure FlagsWrittenOrKept (before before' after after' : Flags) : Prop where
  c : WrittenOrKept before.c before'.c after.c after'.c
  z : WrittenOrKept before.z before'.z after.z after'.z
  i : WrittenOrKept before.i before'.i after.i after'.i
  d : WrittenOrKept before.d before'.d after.d after'.d
  b : WrittenOrKept before.b before'.b after.b after'.b
  v : WrittenOrKept before.v before'.v after.v after'.v
  n : WrittenOrKept before.n before'.n after.n after'.n

section
variable {f f' : Flags}

theorem FlagsWrittenOrKept.kept : FlagsWrittenOrKept f f' f f' :=
  ⟨.kept, .kept, .kept, .kept, .kept, .kept, .kept⟩

theorem FlagsWrittenOrKept.withNZ (v : Byte) : FlagsWrittenOrKept f f' (f.withNZ v) (f'.withNZ v) :=
  ⟨.kept, .written, .kept, .kept, .kept, .kept, .written⟩

theorem FlagsWrittenOrKept.withShift (old : Byte) :
    FlagsWrittenOrKept f f' (f.withShift old) (f'.withShift old) :=
  ⟨.written, .written, .kept, .kept, .kept, .kept, .written⟩

/-- Where the flags began the same but for C they end the same but for C. -/
theorem FlagsWrittenOrKept.eq_but_c {g g' : Flags} {c : Bool} (h : FlagsWrittenOrKept f { f with c := c } g g') :
    { g' with c := g.c } = g := by
  obtain ⟨-, hz, hi, hd, hb, hv, hn⟩ := h
  cases g
  cases g'
  simp only [Flags.mk.injEq]
  exact ⟨trivial, hz.eq_of_same, hi.eq_of_same, hd.eq_of_same, hb.eq_of_same, hv.eq_of_same, hn.eq_of_same⟩

theorem FlagsWrittenOrKept.eq_of_same {g g' : Flags} (h : FlagsWrittenOrKept f f g g') : g' = g :=
  calc g' = { g' with c := g.c } := by rw [← h.c.eq_of_same]
    _ = g := eq_but_c (c := f.c) h

end

/-- Two runs, from s to t and from s' to t', of which neither reads X, Y or a flag: the states they leave agree on
all the rest but the events, and X, Y and each flag are written or kept. -/
structure Unread (s s' t t' : State) : Prop where
  rest : t' = { t with x := t'.x, y := t'.y, flags := t'.flags, events := t'.events }
  x : WrittenOrKept s.x s'.x t.x t'.x
  y : WrittenOrKept s.y s'.y t.y t'.y
  flags : FlagsWrittenOrKept s.flags s'.flags t.flags t'.flags

/-- The events of two runs agree but for what `hide` hides of the registers, where it hides all in which the states they
leave differ. -/
def EventsAgree (t t' : State) : Prop :=
  ∀ hide : Snapshot → Snapshot, hide t'.snapshot = hide t.snapshot →
    t'.events.map (Event.mapRegs hide) = t.events.map (Event.mapRegs hide)

theorem eventsAgree_of_eq {t t' : State} (h : t'.events = t.events) : EventsAgree t t' :=
  fun _ _ => by rw [h]

/-- A Retired event carries nothing beyond the registers, the flags and the budget of the state it leaves (R86). -/
theorem eventsAgree_retire {u u' : State} (op : Byte) (opAddr : Addr) (he : u'.events = u.events)
    (hb : u'.budget = u.budget) : EventsAgree (retire op opAddr u) (retire op opAddr u') := by
  intro hide hregs
  change hide u'.snapshot = hide u.snapshot at hregs
  simp [retire_eq, Event.mapRegs, he, hb, hregs]

section
variable {s : State} {x y : Byte} {f : Flags}

/-- Only LDA zero page,X reads X (R22), no instruction reads Y or a flag (R23, R28 to R30). -/
theorem completed_unread {i : Instr} (hx : x = s.x ∨ ∀ zz, i ≠ .ldaZpX zz) :
    Unread s (s.vary x y f) (completed s i) (completed (s.vary x y f) i) := by
  cases i with
  | ldaImm imm => exact ⟨rfl, .kept, .kept, .withNZ imm⟩
  | ldaZp zz => exact ⟨rfl, .kept, .kept, .withNZ _⟩
  | ldaZpX zz =>
    obtain rfl : x = s.x := hx.resolve_right fun h => h zz rfl
    exact ⟨rfl, .kept, .kept, .withNZ _⟩
  | ldxImm imm => exact ⟨rfl, .written, .kept, .withNZ imm⟩
  | ldxZp zz => exact ⟨rfl, .written, .kept, .withNZ _⟩
  | ldyImm imm => exact ⟨rfl, .kept, .written, .withNZ imm⟩
  | ldyZp zz => exact ⟨rfl, .kept, .written, .withNZ _⟩
  | lsrAcc => exact ⟨rfl, .kept, .kept, .withShift s.a⟩
  | lsrZp zz => exact ⟨rfl, .kept, .kept, .withShift _⟩
  | oraImm imm => exact ⟨rfl, .kept, .kept, .withNZ _⟩
  | oraZp zz => exact ⟨rfl, .kept, .kept, .withNZ _⟩
  | _ => exact ⟨rfl, .kept, .kept, .kept⟩

/-- Before it retires an instruction has emitted the same events, whatever X, Y and the flags. -/
theorem completed_vary_events (i : Instr) :
    (completed (s.vary x y f) i).events = (completed s i).events := by
  cases i <;> rfl

theorem completed_vary_budget (i : Instr) :
    (completed (s.vary x y f) i).budget = (completed s i).budget := by
  cases i <;> rfl

/-- Retiring changes the events alone. -/
theorem retired_unread {i : Instr} (hx : x = s.x ∨ ∀ zz, i ≠ .ldaZpX zz) :
    Unread s (s.vary x y f) (retired i s) (retired i (s.vary x y f)) := by
  obtain ⟨hrest, hX, hY, hflags⟩ := completed_unread (y := y) (f := f) hx
  refine ⟨?_, hX, hY, hflags⟩
  rw [retired, retired, retire_eq, retire_eq, hrest]

theorem retired_eventsAgree (i : Instr) : EventsAgree (retired i s) (retired i (s.vary x y f)) :=
  eventsAgree_retire _ _ (completed_vary_events i) (completed_vary_budget i)

/-- Two whole iterations of one instruction. -/
theorem execResult_unread {i : Instr} (hx : x = s.x ∨ ∀ zz, i ≠ .ldaZpX zz) :
    Unread s (s.vary x y f) (execResult s i) (execResult (s.vary x y f) i) ∧
      EventsAgree (execResult s i) (execResult (s.vary x y f) i) := by
  have hretired := retired_unread (y := y) (f := f) hx
  have hevents := retired_eventsAgree (s := s) (x := x) (y := y) (f := f) i
  cases i with
  | jsrAbs target =>
    by_cases hraises : s.WordWriteRaises
    · rw [execResult, if_pos hraises, execResult, if_pos (show (s.vary x y f).WordWriteRaises from hraises)]
      exact ⟨⟨rfl, .kept, .kept, .kept⟩, eventsAgree_of_eq rfl⟩
    · rw [execResult, if_neg hraises, execResult, if_neg (show ¬ (s.vary x y f).WordWriteRaises from hraises)]
      exact ⟨hretired, hevents⟩
  | unhandled op => exact ⟨⟨rfl, .kept, .kept, .kept⟩, hevents⟩
  | _ => exact ⟨hretired, hevents⟩

/-- Two steps that begin with different X, Y and flags, where no LDA zero page,X is run on different X: idle
passes, or iterations of the same instruction. -/
theorem step_unread {t : State} (hx : x = s.x ∨ ∀ zz, instrAt s ≠ .ldaZpX zz) (hstep : step s = .next t) :
    ∃ t', step (s.vary x y f) = .next t' ∧ Unread s (s.vary x y f) t t' ∧ EventsAgree t t' := by
  obtain ⟨hreset, hfault, ⟨hbudget, rfl⟩ | ⟨hbudget, -⟩⟩ := step_next_cases hstep
  · exact ⟨t.vary x y f, step_of_no_budget hreset hfault hbudget, ⟨rfl, .kept, .kept, .kept⟩,
      eventsAgree_of_eq rfl⟩
  · have hready : s.Ready := ⟨hreset, hfault, hbudget⟩
    have hready' : (s.vary x y f).Ready := hready
    rw [eq_execResult_of_step hready hstep]
    exact ⟨_, step_eq_execResult hready', execResult_unread hx⟩

end

/-- Settles O32: two steps whose Y and flags differ and whose X is the same. -/
theorem yAndTheFlagsAreNeverRead : Obligations.YAndTheFlagsAreNeverRead := by
  intro s t y f hstep
  obtain ⟨t', hstep', ⟨hrest, hx, hy, hflags⟩, hevents⟩ :=
    step_unread (x := s.x) (y := y) (f := f) (.inl rfl) hstep
  obtain ⟨hc, hz, hi, hd, hb, hv, hn⟩ := hflags
  have heq : { t' with y := t.y, flags := t.flags, events := t.events } = t := by
    rw [hrest, hx.eq_of_same]
  refine ⟨t', hstep', heq, hevents _ ?_, hy, hc, hz, hi, hd, hb, hv, hn⟩
  rw [← heq]
  rfl

/-- Settles O33: LDX's two rows are the only ones with X written, LDA zero page,X's is the only one that reads it, and
two steps of any other instruction whose X differs, Y and flags being the same, differ in X alone. -/
theorem onlyLdxWritesXAndOnlyLdaZpXReadsIt : Obligations.OnlyLdxWritesXAndOnlyLdaZpXReadsIt := by
  intro s t hready hstep
  refine ⟨?_, ?_, ?_⟩
  · rw [eq_execResult_of_step hready hstep]
    cases instrAt s with
    | jsrAbs target => exact execResult_jsrAbs_x target s
    | _ => rfl
  · intro zz hinstr
    rw [eq_execResult_of_step hready hstep, hinstr]
    rfl
  · intro hinstr x
    obtain ⟨t', hstep', ⟨hrest, hx, hy, hflags⟩, hevents⟩ :=
      step_unread (x := x) (y := s.y) (f := s.flags) (.inr hinstr) hstep
    have heq : { t' with x := t.x, events := t.events } = t := by
      rw [hrest, hy.eq_of_same, hflags.eq_of_same]
    refine ⟨t', hstep', heq, hevents _ ?_, hx⟩
    rw [← heq]
    rfl

/-- Settles O11: LSR's rows are the only ones with C written, and two steps whose C differs, all else being the same,
differ in C alone. -/
theorem carryComesOnlyFromLsr : Obligations.CarryComesOnlyFromLsr := by
  refine ⟨fun _ => rfl, fun s t hready hstep => ⟨?_, fun c => ?_⟩⟩
  · rw [eq_execResult_of_step hready hstep]
    cases instrAt s with
    | jsrAbs target => exact congrArg Flags.c (execResult_jsrAbs_flags target s)
    | _ => rfl
  · obtain ⟨t', hstep', ⟨hrest, hx, hy, hflags⟩, hevents⟩ :=
      step_unread (x := s.x) (y := s.y) (f := { s.flags with c := c }) (.inl rfl) hstep
    have heq : { t' with flags := { t'.flags with c := t.flags.c }, events := t.events } = t := by
      rw [hflags.eq_but_c, hrest, hx.eq_of_same, hy.eq_of_same]
    refine ⟨t', hstep', heq, hevents _ ?_, hflags.c⟩
    rw [← heq]
    rfl

/-! ### The flag update -/

/-- Settles O10: bit 7 is the highest of a byte's bits, set from 128 on. -/
theorem setNZSetsOnlyZeroAndNegative : Obligations.SetNZSetsOnlyZeroAndNegative := by
  intro v s
  rw [setNZ_eq, BitVec.msb_eq_decide]

/-! ### Passes and calls that dispatch nothing (R35, R36, R80, R89) -/

section
variable {s : State}

theorem step_of_not_reset (h : s.resetDone = false) : step s = .refused .notReset := by
  simp [step, iterate, h]

theorem step_of_latched {f : Fault} (hr : s.resetDone = true) (hf : s.fault = some f) : step s = .fault f := by
  simp [step, iterate, hr, hf]

theorem execute_of_not_reset (h : s.resetDone = false) (b0 : Int) :
    execute b0 s = .error (.refused .notReset) := by
  simp [execute, h]

theorem execute_of_latched {f : Fault} (hr : s.resetDone = true) (hf : s.fault = some f) (b0 : Int) :
    execute b0 s = .ok { state := s, budget := b0, status := .faulted f, events := [] } := by
  simp [execute, hr, hf]

/-- With reset done and no fault latched, a call returns what its run of the loop leaves. -/
theorem execute_of_no_fault {t : State} {b0 : Int} (hr : s.resetDone = true) (hf : s.fault = none)
    (ht : runCall b0.toNat (beginCall b0 s) = t) :
    execute b0 s = .ok { state := t, budget := t.budget, status := statusOf t, events := t.events } := by
  simp [execute, hr, hf, ht]

theorem load_fault {address : Int} {bytes : List Byte} {t : State} (h : load address bytes s = .ok t) :
    t.fault = s.fault := by
  rcases load_cases h with ⟨-, hok⟩ | ⟨bad, -, herr⟩
  · cases hok
    rfl
  · cases herr

theorem accessor_of_not_reset {α : Type} (field : State → α) (h : s.resetDone = false) :
    accessor field s = .error (.refused .notReset) := by
  simp [accessor, h]

theorem accessor_of_reset {α : Type} (field : State → α) (h : s.resetDone = true) :
    accessor field s = .ok (field s) := by
  simp [accessor, h]

end

/-- Settles O26, by the checks at the top of the loop in their order. -/
theorem stepDispatchesOnlyWhenReady : Obligations.StepDispatchesOnlyWhenReady :=
  fun _ => ⟨step_of_not_reset, fun _ => step_of_latched, step_of_no_budget⟩

/-- Settles O39: step and execute look at the latch first, a load writes memory alone, and reset clears the latch. -/
theorem latchedFaultLastsUntilReset : Obligations.LatchedFaultLastsUntilReset := by
  intro s f hreset hlatched
  exact ⟨step_of_latched hreset hlatched, execute_of_latched hreset hlatched,
    fun _ _ _ hload => (load_fault hload).trans hlatched, rfl⟩

/-- Settles O41: reset leaves no cell listed and the latch empty. -/
theorem resetHasTheInvariant : Obligations.ResetHasTheInvariant :=
  ⟨⟨rfl, trivial⟩, fun _ => ⟨rfl, trivial⟩⟩

/-- Settles O45: execute and the accessors look at the reset-done flag first, and power-on lists no cell. -/
theorem registersAndFlagsAreRefusedBeforeReset : Obligations.RegistersAndFlagsAreRefusedBeforeReset := by
  refine ⟨fun s h => ⟨execute_of_not_reset h, ?_⟩, fun s h => ?_, fun regs config => ⟨rfl, fun a => ?_⟩⟩
  · exact ⟨accessor_of_not_reset _ h, accessor_of_not_reset _ h, accessor_of_not_reset _ h,
      accessor_of_not_reset _ h, accessor_of_not_reset _ h, accessor_of_not_reset _ h⟩
  · exact ⟨accessor_of_reset _ h, accessor_of_reset _ h, accessor_of_reset _ h, accessor_of_reset _ h,
      accessor_of_reset _ h, accessor_of_reset _ h⟩
  · exact memRead_nil a _ rfl

/-- Settles O46: a budget of 0 or below is worth no pass of the loop, and the latch is still empty after none. -/
theorem executeWithoutBudgetDoesNoWork : Obligations.ExecuteWithoutBudgetDoesNoWork := by
  intro b0 s hb hreset hfault
  have hnone : runCall b0.toNat (beginCall b0 s) = beginCall b0 s := by
    rw [Int.toNat_of_nonpos hb]
    rfl
  have hstatus : statusOf (beginCall b0 s) = .exhausted := statusOf_eq_exhausted.2 hfault
  rw [execute_of_no_fault hreset hfault hnone, hstatus]
  rfl

end Sys2Proof.Machine
end

section
/-! PROOFS of 20_memory.md. A canonical memory as the set of its cells, the bytes each storing instruction leaves in
memory, and the machine's invariant along a step and along a call. -/

namespace Sys2Proof.Machine

/-! ### The cells of a canonical memory (R40, R59) -/

theorem Memory.bounds_of_mem {low a : Nat} {v : Byte} {m : Memory} (hm : m.wfFrom low = true)
    (h : (a, v) ∈ m) : low ≤ a ∧ a < 65536 := by
  induction m generalizing low with
  | nil => cases h
  | cons c rest ih =>
    obtain ⟨k, w⟩ := c
    obtain ⟨hlow, hk, -, hrest⟩ := (Memory.wfFrom_cons ..).1 hm
    rcases List.mem_cons.1 h with heq | hmem
    · cases heq
      exact ⟨hlow, hk⟩
    · obtain ⟨hka, ha⟩ := ih hrest hmem
      exact ⟨by omega, ha⟩

theorem Memory.mem_iff_read_from {low a : Nat} {v : Byte} {m : Memory} (hm : m.wfFrom low = true) :
    (a, v) ∈ m ↔ v ≠ Memory.unlisted ∧ m.read a = v := by
  induction m generalizing low with
  | nil => simpa using Ne.symm
  | cons c rest ih =>
    obtain ⟨k, w⟩ := c
    obtain ⟨-, -, hw, hrest⟩ := (Memory.wfFrom_cons ..).1 hm
    rw [List.mem_cons, ih hrest, Prod.mk.injEq, Memory.read]
    by_cases ha : a = k
    · subst ha
      have hnot : ¬ (v ≠ Memory.unlisted ∧ Memory.read rest a = v) := fun ⟨hv, hread⟩ =>
        hv (hread.symm.trans (Memory.read_below hrest (Nat.lt_succ_self a)))
      simp only [hnot, or_false, true_and, if_true]
      exact ⟨fun h => ⟨h ▸ hw, h.symm⟩, fun ⟨_, h⟩ => h.symm⟩
    · simp [ha]

/-- What a canonical memory lists: each address that reads as another value than the unlisted one, with its value. -/
theorem Memory.mem_iff_read {m : Memory} (hm : m.wf = true) {a : Nat} {v : Byte} :
    (a, v) ∈ m ↔ v ≠ Memory.unlisted ∧ m.read a = v :=
  Memory.mem_iff_read_from hm

theorem Memory.pairwise_lt_of_wfFrom {low : Nat} {m : Memory} (hm : m.wfFrom low = true) :
    m.Pairwise fun c d => c.1 < d.1 := by
  induction m generalizing low with
  | nil => exact .nil
  | cons c rest ih =>
    obtain ⟨k, w⟩ := c
    obtain ⟨-, -, -, hrest⟩ := (Memory.wfFrom_cons ..).1 hm
    exact .cons (fun _ hd => (Memory.bounds_of_mem hrest hd).1) (ih hrest)

/-- Settles O8: the readings of a canonical memory determine its cells, and the rising addresses their order. -/
theorem canonicalMemoryIsUnique : Obligations.CanonicalMemoryIsUnique := by
  intro m₁ m₂ h₁ h₂ hread
  refine (Memory.pairwise_lt_of_wfFrom h₁).eq_of_mem_iff (Memory.pairwise_lt_of_wfFrom h₂) ?_
  rintro ⟨a, v⟩
  by_cases ha : a < 65536
  · have hsame : m₁.read a = m₂.read a := hread (.ofNatLT a ha)
    rw [Memory.mem_iff_read h₁, Memory.mem_iff_read h₂, hsame]
  · exact ⟨fun h => absurd (Memory.bounds_of_mem h₁ h).2 ha,
      fun h => absurd (Memory.bounds_of_mem h₂ h).2 ha⟩

/-- Settles O9: the dump is the list of the cells, each at an address of 16 bits. -/
theorem dumpListsTheNonZeroCells : Obligations.DumpListsTheNonZeroCells := by
  intro s a v hwf
  constructor
  · intro hmem
    obtain ⟨hv, hread⟩ := (Memory.mem_iff_read hwf).1 hmem
    obtain ⟨-, ha⟩ := Memory.bounds_of_mem hwf hmem
    exact ⟨hv, .ofNatLT a ha, rfl, hread⟩
  · rintro ⟨hv, addr, rfl, hread⟩
    exact (Memory.mem_iff_read hwf).2 ⟨hv, hread⟩

/-! ### The primitives (R42 to R48) -/

/-- Settles O7, by what each primitive does. -/
theorem fetchAndReadPrimitives : Obligations.FetchAndReadPrimitives :=
  fun addr s => ⟨fetchByte_eq s, fetchWord_eq s, readByte_eq addr s⟩

/-- Settles O5: a byte write is a write to the memory list and its charge. -/
theorem byteWriteChangesExactlyItsCell : Obligations.ByteWriteChangesExactlyItsCell :=
  fun addr v _ hwf => ⟨fun a => memRead_setByte hwf addr a v, memWrite_eq addr v _⟩

/-- The condition under which a word write completes is the negation of the one under which it raises (R44). -/
theorem wordWrite_ok_iff {addr : Addr} {top : WordWriteTop} :
    addr ≠ 0xFFFF ∨ top = .wrap ↔ ¬ (addr = 0xFFFF ∧ top = .fault) := by
  cases top <;> simp

/-- R9: bits 15..8 of a word, as the statements write them. -/
theorem highByte_eq_setWidth (v : Addr) : highByte v = (v >>> 8).setWidth 8 := rfl

/-- Settles O6: a word write has two outcomes, whose conditions exclude each other. -/
theorem wordWriteIsLittleEndianAndChecked : Obligations.WordWriteIsLittleEndianAndChecked := by
  intro addr v s hwf
  rcases memWriteWord_cases addr v s with ⟨haddr, htop, hraised⟩ | ⟨hok, hdone⟩
  · exact ⟨fun hok => absurd ⟨haddr, htop⟩ (wordWrite_ok_iff.1 hok), fun _ _ => hraised⟩
  · exact ⟨fun _ => ⟨_, hdone, fun a => read_write_word hwf addr a _ _, rfl⟩,
      fun haddr htop => absurd ⟨haddr, htop⟩ (wordWrite_ok_iff.1 hok)⟩

/-! ### What PHA and JSR leave in memory (R141, R142) -/

section
variable {s : State}

theorem eq_execResult_of_exec {i : Instr} {t : State} (h : exec i s = .next t) : t = execResult s i :=
  Host.Outcome.next.inj (h.symm.trans (exec_eq_execResult i s))

/-- PHA stores A at the old SP and no other byte. -/
theorem memRead_execResult_pha (hwf : s.mem.wf = true) (a : Addr) :
    memRead a (execResult s .pha) = if a = s.sp then s.a else memRead a s :=
  memRead_setByte hwf s.sp a _

/-- A JSR that the word write lets through retires. -/
theorem execResult_jsrAbs_of_ok (h : s.sp ≠ 0xFFFF ∨ s.config.wordWriteTop = .wrap) (target : Addr) :
    execResult s (.jsrAbs target) = retired (.jsrAbs target) s :=
  if_neg (wordWrite_ok_iff.1 h)

/-- A JSR that completes stores the address of its last byte as a word at the old SP and no other byte. -/
theorem memRead_execResult_jsrAbs (hwf : s.mem.wf = true)
    (h : s.sp ≠ 0xFFFF ∨ s.config.wordWriteTop = .wrap) (target a : Addr) :
    memRead a (execResult s (.jsrAbs target)) =
      if a = s.sp then lowByte (s.pc + 2)
      else if a = s.sp + 1 then highByte (s.pc + 2)
      else memRead a s := by
  rw [execResult_jsrAbs_of_ok h]
  exact read_write_word hwf s.sp a _ _

end

/-- Settles O36: a fetch reads the memory it finds, which is the one the instruction left. -/
theorem laterFetchSeesTheStore : Obligations.LaterFetchSeesTheStore := by
  intro s t u hwf hmem
  have hread {i : Instr} (hexec : exec i s = .next t) (a : Addr) : memRead a u = memRead a (execResult s i) :=
    memRead_congr (hmem.trans (congrArg State.mem (eq_execResult_of_exec hexec))) a
  refine ⟨fun zz hexec hpc => ?_, fun hexec hpc => ?_, fun target hok hexec => ?_⟩
  · rw [fetchByte_eq, hpc, hread hexec, memRead_execResult_lsrZp hwf, BitVec.toNat_ushiftRight,
      Nat.shiftRight_one]
  · rw [fetchByte_eq, hpc, hread hexec, memRead_execResult_pha hwf, if_pos rfl]
  · have hlow : memRead s.sp u = lowByte (s.pc + 2) := by
      rw [hread hexec, memRead_execResult_jsrAbs hwf hok, if_pos rfl]
    have hhigh : memRead (s.sp + 1) u = highByte (s.pc + 2) := by
      rw [hread hexec, memRead_execResult_jsrAbs hwf hok, if_neg (succ_addr_ne s.sp), if_pos rfl]
    refine ⟨fun hpc => ?_, fun hpc => ?_⟩
    · rw [fetchWord_eq, hpc, hlow, hhigh, wordOf_bytes]
    · rw [fetchByte_eq, hpc, hhigh, highByte_eq_setWidth]

/-! ### The invariant (R40, R91, R161, R165) -/

/-- The Instruction Table answers well-formed instructions alone, `unhandled` only for an opcode without a handler
(R69, R73). -/
theorem assemble_wf (m : OpcodeMap) (op b1 b2 : Byte) : (m.assemble op b1 b2).wf m = true := by
  unfold OpcodeMap.assemble
  cases hlookup : m.lookup op with
  | none => exact Instr.wf_unhandled.2 hlookup
  | some o => cases o <;> rfl

theorem instrAt_wf (s : State) : (instrAt s).wf s.config.opcodes = true := assemble_wf ..

theorem latchLegal_of_no_fault {s : State} (h : s.fault = none) : s.LatchLegal := by
  rw [State.LatchLegal, h]
  trivial

section
variable {s : State}

/-- Each store of an instruction is a write inside the address space. -/
theorem completed_keeps_wf (hwf : s.mem.wf = true) (i : Instr) : (completed s i).mem.wf = true := by
  cases i with
  | lsrZp zz => exact setByte_wf hwf (zext16 zz) _
  | pha => exact setByte_wf hwf s.sp s.a
  | jsrAbs target => exact Memory.write_wf (Memory.write_wf hwf s.sp.isLt _) (s.sp + 1).isLt _
  | _ => exact hwf

theorem execResult_keeps_wf (hwf : s.mem.wf = true) (i : Instr) : (execResult s i).mem.wf = true := by
  cases i with
  | jsrAbs target =>
    rcases execResult_jsrAbs_cases target s with ⟨-, hraised⟩ | ⟨-, hdone⟩
    · rw [hraised]
      exact hwf
    · rw [hdone]
      exact completed_keeps_wf hwf (.jsrAbs target)
  | _ => exact completed_keeps_wf hwf _

/-- Only a JSR whose word write raises and an unhandled opcode under the policy `halt` set an empty latch, each to a
legal fault. -/
theorem execResult_latchLegal (hfault : s.fault = none) {i : Instr} (hi : i.wf s.config.opcodes = true) :
    (execResult s i).LatchLegal := by
  cases i with
  | jsrAbs target =>
    rcases execResult_jsrAbs_cases target s with ⟨⟨hsp, htop⟩, hraised⟩ | ⟨-, hdone⟩
    · rw [hraised]
      exact ⟨htop, rfl, rfl, hsp, rfl⟩
    · rw [hdone]
      exact latchLegal_of_no_fault hfault
  | unhandled op =>
    by_cases hpolicy : s.config.unhandledPolicy = .halt
    · rw [execResult, if_pos hpolicy]
      exact ⟨hpolicy, hi, rfl⟩
    · rw [execResult, if_neg hpolicy]
      exact latchLegal_of_no_fault hfault
  | _ => exact latchLegal_of_no_fault hfault

end

/-- Settles O40: an idle pass changes nothing, and an iteration keeps memory canonical and begins with an empty
latch. -/
theorem stepKeepsTheInvariant : Obligations.StepKeepsTheInvariant := by
  intro s t hinv hstep
  obtain ⟨hreset, hfault, ⟨-, rfl⟩ | ⟨hbudget, -⟩⟩ := step_next_cases hstep
  · exact hinv
  · obtain ⟨hwf, -⟩ := hinv
    rw [eq_execResult_of_step ⟨hreset, hfault, hbudget⟩ hstep]
    exact ⟨execResult_keeps_wf hwf _, execResult_latchLegal hfault (instrAt_wf s)⟩

/-- Settles O51: a call on a latched fault leaves the state, any other is a run of steps from a state with the same
memory and latch. -/
theorem executeKeepsTheInvariant : Obligations.ExecuteKeepsTheInvariant := by
  intro b0 s r hinv h
  obtain ⟨-, ⟨f, -, rfl⟩ | ⟨-, t, rfl, rfl⟩⟩ := execute_ok_cases h
  · exact hinv
  · have hbegin : (beginCall b0 s).Inv := hinv
    exact runCall_keeps stepKeepsTheInvariant b0.toNat hbegin

end Sys2Proof.Machine
end

section
/-! PROOFS of 30_encoding.md. The instruction of a handler and its operand bytes, the encoder and the decoder on what
the Instruction Table answers, and from these that decoding and encoding are inverse and that a step runs what is
encoded at PC. -/

namespace Sys2Proof

/-! ### An operation with its operand bytes (R60, R62) -/

/-- The instruction of a handler with the two bytes after its opcode, of which it takes those of its format. -/
def Operation.instr (b1 b2 : Byte) : Operation → Instr
  | .ldaImm => .ldaImm b1
  | .ldaZp  => .ldaZp b1
  | .ldaZpX => .ldaZpX b1
  | .ldxImm => .ldxImm b1
  | .ldxZp  => .ldxZp b1
  | .ldyImm => .ldyImm b1
  | .ldyZp  => .ldyZp b1
  | .lsrAcc => .lsrAcc
  | .lsrZp  => .lsrZp b1
  | .oraImm => .oraImm b1
  | .oraZp  => .oraZp b1
  | .pha    => .pha
  | .jsrAbs => .jsrAbs (wordOf b2 b1)
  | .nop    => .nop

theorem Format.operandBytes_le_two (f : Format) : f.operandBytes ≤ 2 := by
  cases f <;> decide

theorem Operation.length_instr (o : Operation) (b1 b2 : Byte) :
    (o.instr b1 b2).length = 1 + o.format.operandBytes := by
  cases o <;> rfl

theorem Operation.encode_instr (o : Operation) (m : OpcodeMap) (b1 b2 : Byte) :
    encode m (o.instr b1 b2) = m.code o :: [b1, b2].take o.format.operandBytes := by
  cases o with
  | jsrAbs => rw [instr, encode, lowByte_wordOf, highByte_wordOf]; rfl
  | _ => rfl

/-- An operation looks at no byte past those of its format. -/
theorem Operation.instr_operands_append (o : Operation) (b1 b2 : Byte) (rest : List Byte) :
    o.instr (([b1, b2].take o.format.operandBytes ++ rest).getD 0 0)
      (([b1, b2].take o.format.operandBytes ++ rest).getD 1 0) = o.instr b1 b2 := by
  cases o <;> rfl

/-! ### The Instruction Table (R69, R73) -/

namespace OpcodeMap

section
variable {m : OpcodeMap} {op : Byte}

theorem assemble_of_lookup {o : Operation} (h : m.lookup op = some o) (b1 b2 : Byte) :
    m.assemble op b1 b2 = o.instr b1 b2 := by
  rw [assemble, h]
  cases o <;> rfl

theorem assemble_of_lookup_none (h : m.lookup op = none) (b1 b2 : Byte) :
    m.assemble op b1 b2 = .unhandled op := by
  rw [assemble, h]

theorem operandBytes_of_lookup {o : Operation} (h : m.lookup op = some o) :
    m.operandBytes op = o.format.operandBytes := by
  rw [operandBytes, h]

theorem operandBytes_of_lookup_none (h : m.lookup op = none) : m.operandBytes op = 0 := by
  rw [operandBytes, h]

end

section
variable (m : OpcodeMap) (op b1 b2 : Byte)

theorem operandBytes_le_two : m.operandBytes op ≤ 2 := by
  cases h : m.lookup op with
  | none => simp [operandBytes_of_lookup_none h]
  | some o => simpa [operandBytes_of_lookup h] using o.format.operandBytes_le_two

theorem length_operands : ([b1, b2].take (m.operandBytes op)).length = m.operandBytes op :=
  List.length_take_of_le (m.operandBytes_le_two op)

theorem length_assemble : (m.assemble op b1 b2).length = 1 + m.operandBytes op := by
  cases h : m.lookup op with
  | none => rw [assemble_of_lookup_none h, operandBytes_of_lookup_none h]; rfl
  | some o => rw [assemble_of_lookup h, operandBytes_of_lookup h, o.length_instr]

/-- What the table answers is encoded as the opcode byte and the operand bytes it was made of. -/
theorem encode_assemble :
    encode m (m.assemble op b1 b2) = op :: [b1, b2].take (m.operandBytes op) := by
  cases h : m.lookup op with
  | none => rw [assemble_of_lookup_none h, operandBytes_of_lookup_none h]; rfl
  | some o => rw [assemble_of_lookup h, operandBytes_of_lookup h, o.encode_instr, code_of_lookup h]

/-- The table looks at no byte past those that the opcode asks for. -/
theorem assemble_operands_append (rest : List Byte) :
    m.assemble op (([b1, b2].take (m.operandBytes op) ++ rest).getD 0 0)
      (([b1, b2].take (m.operandBytes op) ++ rest).getD 1 0) = m.assemble op b1 b2 := by
  cases h : m.lookup op with
  | none => rw [assemble_of_lookup_none h, assemble_of_lookup_none h]
  | some o =>
    rw [assemble_of_lookup h, assemble_of_lookup h, operandBytes_of_lookup h, o.instr_operands_append]

end

end OpcodeMap

/-- Under distinct opcode values the table answers every well-formed instruction for some bytes. -/
theorem Instr.exists_assemble {m : OpcodeMap} {i : Instr} (hm : m.Distinct) (hi : i.wf m = true) :
    ∃ op b1 b2, m.assemble op b1 b2 = i := by
  have handled (o : Operation) (b1 b2 : Byte) : ∃ op c1 c2, m.assemble op c1 c2 = o.instr b1 b2 :=
    ⟨m.code o, b1, b2, OpcodeMap.assemble_of_lookup (OpcodeMap.lookup_code hm o) b1 b2⟩
  cases i with
  | ldaImm imm => exact handled .ldaImm imm 0
  | ldaZp zz => exact handled .ldaZp zz 0
  | ldaZpX zz => exact handled .ldaZpX zz 0
  | ldxImm imm => exact handled .ldxImm imm 0
  | ldxZp zz => exact handled .ldxZp zz 0
  | ldyImm imm => exact handled .ldyImm imm 0
  | ldyZp zz => exact handled .ldyZp zz 0
  | lsrAcc => exact handled .lsrAcc 0 0
  | lsrZp zz => exact handled .lsrZp zz 0
  | oraImm imm => exact handled .oraImm imm 0
  | oraZp zz => exact handled .oraZp zz 0
  | pha => exact handled .pha 0 0
  | jsrAbs target =>
    rw [← wordOf_bytes target]
    exact handled .jsrAbs (lowByte target) (highByte target)
  | nop => exact handled .nop 0 0
  | unhandled op => exact ⟨op, 0, 0, OpcodeMap.assemble_of_lookup_none (Instr.wf_unhandled.1 hi) 0 0⟩

/-! ### The decoder (R60, R61, R73) -/

section
variable {m : OpcodeMap} {op : Byte} {tail : List Byte}

theorem decode_cons_of_le (h : m.operandBytes op ≤ tail.length) :
    decode m (op :: tail) =
      .ok (m.assemble op (tail.getD 0 0) (tail.getD 1 0), tail.drop (m.operandBytes op)) :=
  if_neg (Nat.not_lt.2 h)

theorem decode_cons_of_lt (h : tail.length < m.operandBytes op) :
    decode m (op :: tail) = .error (.operandMissing op) :=
  if_pos h

/-- All that a list of bytes the decoder accepts can be. -/
theorem decode_ok_cases {bytes rest : List Byte} {i : Instr} (h : decode m bytes = .ok (i, rest)) :
    ∃ op tail, bytes = op :: tail ∧ m.operandBytes op ≤ tail.length ∧
      i = m.assemble op (tail.getD 0 0) (tail.getD 1 0) ∧ rest = tail.drop (m.operandBytes op) := by
  cases bytes with
  | nil => cases h
  | cons op tail =>
    rcases Nat.lt_or_ge tail.length (m.operandBytes op) with hlt | hle
    · rw [decode_cons_of_lt hlt] at h
      cases h
    · rw [decode_cons_of_le hle] at h
      cases h
      exact ⟨op, tail, rfl, hle, rfl, rfl⟩

/-- Up to two bytes that a list has are its first two as the decoder reads them. -/
theorem take_first_two {n : Nat} {l : List Byte} (hn : n ≤ 2) (hl : n ≤ l.length) :
    [l.getD 0 0, l.getD 1 0].take n = l.take n := by
  match n, l with
  | 0, _ => rfl
  | 1, _ :: _ => rfl
  | 2, _ :: _ :: _ => rfl

/-- Settles O1: the table answers the instruction for some opcode and operand bytes, its encoding is these bytes, and
the decoder hands them to the table again. -/
theorem decodeOfEncodeIsTheInstruction : Obligations.DecodeOfEncodeIsTheInstruction := by
  intro m i rest hm hi
  obtain ⟨op, b1, b2, rfl⟩ := Instr.exists_assemble hm hi
  have hlen := m.length_operands op b1 b2
  have hle : m.operandBytes op ≤ ([b1, b2].take (m.operandBytes op) ++ rest).length := by
    rw [List.length_append, hlen]
    exact Nat.le_add_right ..
  rw [m.encode_assemble, List.cons_append, decode_cons_of_le hle, m.assemble_operands_append,
    List.drop_left' hlen]

/-- Settles O2: the operand bytes that the decoder takes are those it leaves out of the rest. -/
theorem encodeOfDecodeIsTheBytes : Obligations.EncodeOfDecodeIsTheBytes := by
  intro m bytes rest i h
  obtain ⟨op, tail, rfl, hle, rfl, rfl⟩ := decode_ok_cases h
  refine ⟨?_, Machine.assemble_wf ..⟩
  rw [m.encode_assemble, take_first_two (m.operandBytes_le_two op) hle, List.cons_append,
    List.take_append_drop]

/-- Settles O3: the length is one more than the operand bytes the opcode asks for. -/
theorem opcodeByteAloneDeterminesLength : Obligations.OpcodeByteAloneDeterminesLength := by
  intro m op
  have htwo := m.operandBytes_le_two op
  refine ⟨1 + m.operandBytes op, by omega, by omega, fun h => ?_, fun o h => ?_,
    fun rest => ⟨fun h => ?_, fun h => ?_⟩⟩
  · rw [OpcodeMap.operandBytes_of_lookup_none h]
  · rw [OpcodeMap.operandBytes_of_lookup h]
  · rw [Nat.add_sub_cancel_left, decode_cons_of_le (by omega)]
    exact ⟨_, rfl, m.length_assemble ..⟩
  · exact decode_cons_of_lt (by omega)

end

/-- Settles O4: an opcode with a handler has that operation's value, and one without has none of the 14. -/
theorem instructionTableIsAsListed : Obligations.InstructionTableIsAsListed := by
  intro op lo hi
  cases h : OpcodeMap.mos6502.lookup op with
  | some o =>
    rw [OpcodeMap.assemble_of_lookup h]
    cases OpcodeMap.code_of_lookup h
    cases o <;> rfl
  | none =>
    rw [OpcodeMap.assemble_of_lookup_none h]
    have hne : ∀ o ∈ Operation.all, op ≠ OpcodeMap.mos6502.code o :=
      fun o _ => (OpcodeMap.lookup_eq_none.1 h o).symm
    simp only [Operation.all, List.forall_mem_cons, OpcodeMap.code, OpcodeMap.mos6502] at hne
    simp only [hne, if_false]

end Sys2Proof

namespace Sys2Proof.Machine

/-! ### The instruction at PC (R63 to R68, R82, R83) -/

/-- The bytes at PC are enough for every format, and the decoder reads from them the instruction at PC. -/
theorem decode_bytesAtPc (s : State) :
    decode s.config.opcodes (bytesAtPc s) = .ok (instrAt s,
      [memRead (s.pc + 1) s, memRead (s.pc + 2) s].drop (s.config.opcodes.operandBytes (memRead s.pc s))) :=
  decode_cons_of_le (OpcodeMap.operandBytes_le_two ..)

/-- Settles O23: an encoding at PC decodes to its instruction, and the bytes at PC to the one at PC. -/
theorem stepRunsTheEncodedInstruction : Obligations.StepRunsTheEncodedInstruction := by
  rintro s i hready hm hi ⟨rest, hbytes⟩
  have hdecode := decodeOfEncodeIsTheInstruction s.config.opcodes i rest hm hi
  rw [hbytes, decode_bytesAtPc] at hdecode
  cases hdecode
  exact step_of_ready hready

/-- R47: the word fetched after the opcode lies in the second and third byte from PC on. -/
theorem fetchWord_after_opcode (s : State) :
    (fetchWord (fetchByte s).2).1 = wordOf (memRead (s.pc + 2) s) (memRead (s.pc + 1) s) := by
  rw [← pc_after_byte]
  rfl

/-- Settles O24: the opcode's fetch leaves memory and moves PC by one, so that an operand's fetch reads the bytes the
table is given. -/
theorem operandsAreTheFetchedBytes : Obligations.OperandsAreTheFetchedBytes := by
  intro s op s₁
  cases h : s.config.opcodes.lookup op with
  | none => exact OpcodeMap.assemble_of_lookup_none h ..
  | some o =>
    refine (OpcodeMap.assemble_of_lookup h ..).trans ?_
    cases o with
    | jsrAbs => exact congrArg Instr.jsrAbs (fetchWord_after_opcode s).symm
    | _ => rfl

end Sys2Proof.Machine
end

section
/-! PROOFS of 40_engine.md. What an iteration charges, emits and latches, read off the state it leaves; the word that
withFetchWord places as the bytes the next step decodes; and the end of a call's run of passes. -/

namespace Sys2Proof.Machine

/-! ### The dispatch (R81 to R85, R90) -/

/-- Settles O22: what the bytes at PC decode to is the instruction at PC, which a ready machine runs. -/
theorem stepRunsTheDecodedInstruction : Obligations.StepRunsTheDecodedInstruction := by
  intro s i rest hready hdecode
  rw [decode_bytesAtPc] at hdecode
  cases hdecode
  exact step_of_ready hready

/-- Settles O27: every instruction's meaning is an iteration, which charges at least 1 unit. -/
theorem everyDispatchAnswersANextState : Obligations.EveryDispatchAnswersANextState := by
  intro s hready
  obtain ⟨t, hexec, hit⟩ := exec_iterates (instrAt s) s
  exact ⟨t, (step_of_ready hready).trans hexec, hit.charges⟩

/-! ### An unhandled opcode (R84, R91) -/

/-- Settles O21: the policy leaves the retired state, or sets its latch. -/
theorem unhandledOpcodeReportsItself : Obligations.UnhandledOpcodeReportsItself := by
  intro op s t
  have hexec : exec (.unhandled op) s = .next (applyUnhandledPolicy op s.pc t) := exec_unhandled op s
  have hconfig : t.config = s.config := rfl
  rw [hexec, applyUnhandledPolicy_eq, hconfig]
  refine ⟨fun hcontinue => ?_, fun hhalt => ?_⟩
  · rw [hcontinue, if_neg (by decide)]
  · rw [hhalt, if_pos rfl]

/-! ### What an iteration charges (R88) -/

theorem completed_budget (s : State) (i : Instr) :
    (completed s i).budget = s.budget - costOf s.config i := by
  cases i with
  | lsrZp zz => exact Int.sub_sub s.budget 3 s.config.byteWriteCost
  | pha => exact Int.sub_sub s.budget 1 s.config.byteWriteCost
  | _ => rfl

/-- Settles O28: every instruction but a JSR that takes the address fault retires, charged by the cost table. -/
theorem budgetIsChargedByTheCostTable : Obligations.BudgetIsChargedByTheCostTable := by
  refine ⟨fun c i => ⟨one_le_costOf c i, costOf_le_maxCost c i⟩, fun i s => ⟨_, exec_eq_execResult i s, ?_⟩⟩
  cases i with
  | jsrAbs target =>
    rcases execResult_jsrAbs_cases target s with ⟨hraises, hraised⟩ | ⟨hok, hdone⟩
    · rw [hraised, if_pos ⟨⟨target, rfl⟩, hraises⟩]
      rfl
    · rw [hdone, if_neg fun h => hok h.2]
      exact completed_budget s _
  | _ =>
    rw [if_neg (by rintro ⟨⟨target, hjsr⟩, -⟩; cases hjsr)]
    exact completed_budget s _

/-! ### What an iteration emits and latches (R84, R86, R91, R161, R165) -/

/-- The first byte of the encoding of the instruction at PC is the byte at PC, under any opcode map (R60). -/
theorem opcodeOf_instrAt (s : State) : opcodeOf s.config.opcodes (instrAt s) = memRead s.pc s :=
  congrArg (List.headD · 0) (OpcodeMap.encode_assemble ..)

/-- The Retired event of an instruction that leaves a state: what that state holds (R86). -/
def State.retiredEvent (op : Byte) (opAddr : Addr) (t : State) : Event :=
  .retired op opAddr t.snapshot t.budget

theorem retired_events (i : Instr) (s : State) :
    (retired i s).events = (completed s i).events ++
      [(retired i s).retiredEvent (opcodeOf s.config.opcodes i) s.pc] := rfl

/-- Settles O35: a completed instruction emits its Retired event, an unhandled opcode has emitted its own before, and
a ready machine's latch is empty, so that the latch tells a JSR's two endings apart. -/
theorem iterationEmitsItsEvents : Obligations.IterationEmitsItsEvents := by
  intro s t hready hstep
  obtain ⟨-, hfault, -⟩ := id hready
  rw [eq_execResult_of_step hready hstep, ← opcodeOf_instrAt]
  cases instrAt s with
  | jsrAbs target =>
    rcases execResult_jsrAbs_cases target s with ⟨-, hraised⟩ | ⟨-, hdone⟩
    · rw [hraised]
      exact (if_neg (Option.some_ne_none _)).symm
    · rw [hdone]
      exact (retired_events _ s).trans (if_pos hfault).symm
  | unhandled op => exact (retired_events (.unhandled op) s).trans (List.append_assoc ..)
  | _ => exact retired_events _ s

/-- From an empty latch an instruction latches a fault in two cases: a JSR whose word write raises, and an unhandled
opcode under the policy `halt`. -/
theorem execResult_fault_cases {s : State} {i : Instr} {f : Fault} (hfault : s.fault = none)
    (h : (execResult s i).fault = some f) :
    (∃ target, i = .jsrAbs target ∧ s.WordWriteRaises ∧
      f = .addressOutOfRange 0x10000 (opcodeOf s.config.opcodes i) s.pc) ∨
    (∃ op, i = .unhandled op ∧ s.config.unhandledPolicy = .halt ∧ f = .unhandledOpcodeHalt op s.pc) := by
  cases i with
  | jsrAbs target =>
    rcases execResult_jsrAbs_cases target s with ⟨hraises, hraised⟩ | ⟨-, hdone⟩
    · rw [hraised] at h
      exact .inl ⟨target, rfl, hraises, (Option.some.inj h).symm⟩
    · rw [hdone] at h
      cases hfault.symm.trans h
  | unhandled op =>
    by_cases hpolicy : s.config.unhandledPolicy = .halt
    · rw [execResult, if_pos hpolicy] at h
      exact .inr ⟨op, rfl, hpolicy, (Option.some.inj h).symm⟩
    · rw [execResult, if_neg hpolicy] at h
      cases hfault.symm.trans h
  | _ => cases hfault.symm.trans h

/-- Settles O38: a ready machine's latch is empty, and the opcode a fault records is the byte at PC. -/
theorem faultsComeOnlyFromTheirCauses : Obligations.FaultsComeOnlyFromTheirCauses := by
  intro s t hready hstep
  obtain ⟨-, hfault, -⟩ := id hready
  rw [eq_execResult_of_step hready hstep]
  have hop := opcodeOf_instrAt s
  refine ⟨fun addr op opAddr hlatched => ?_, fun op opAddr hlatched => ?_⟩
  · rcases execResult_fault_cases hfault hlatched with ⟨target, hjsr, ⟨hsp, htop⟩, hf⟩ | ⟨_, -, -, hf⟩
    · cases hf
      exact ⟨⟨target, hjsr⟩, hsp, htop, rfl, hop, rfl⟩
    · cases hf
  · rcases execResult_fault_cases hfault hlatched with ⟨_, -, -, hf⟩ | ⟨_, hunhandled, hpolicy, hf⟩
    · cases hf
    · cases hf
      rw [hunhandled] at hop
      exact ⟨hunhandled, hpolicy, hop, rfl⟩

/-! ### A placed word (notes/assumptions/7.md) -/

theorem ready_makeReady (s : State) : (makeReady s).Ready := by
  refine ⟨rfl, rfl, ?_⟩
  change 0 < if s.budget ≤ 0 then 1 else s.budget
  split <;> omega

/-- Three bytes placed at PC are those at PC, at the top of memory too: three consecutive addresses differ. -/
theorem bytesAtPc_placeBytes {s : State} (hwf : s.mem.wf = true) (b0 b1 b2 : Byte) :
    bytesAtPc (placeBytes s.pc [b0, b1, b2] s) = [b0, b1, b2] := by
  have hwf1 := setByte_wf hwf s.pc b0
  have hwf2 := setByte_wf hwf1 (s.pc + 1) b1
  have hread (a : Addr) : memRead a (placeBytes s.pc [b0, b1, b2] s) =
      if a = s.pc + 2 then b2 else if a = s.pc + 1 then b1 else if a = s.pc then b0 else memRead a s := by
    rw [← memRead_setByte hwf, ← memRead_setByte hwf1, ← memRead_setByte hwf2, ← pc_after_byte]
    rfl
  have h01 : s.pc ≠ s.pc + 1 := (succ_addr_ne s.pc).symm
  have h02 : s.pc ≠ s.pc + 2 := by bv_omega
  have h12 : s.pc + 1 ≠ s.pc + 2 := by bv_omega
  change [memRead s.pc _, memRead (s.pc + 1) _, memRead (s.pc + 2) _] = _
  rw [hread, hread, hread, if_neg h02, if_neg h01, if_pos rfl, if_neg h12, if_pos rfl, if_pos rfl]

theorem bytesAtPc_withFetchWord {s : State} (hwf : s.mem.wf = true) (nbits w : Nat) :
    bytesAtPc (s.withFetchWord nbits w) = tableWordBytes nbits w :=
  bytesAtPc_placeBytes hwf ..

theorem decode_of_decodeTableWord {nbits w : Nat} {i : Instr} (h : decodeTableWord nbits w = some i) :
    ∃ rest, decode OpcodeMap.mos6502 (tableWordBytes nbits w) = .ok (i, rest) := by
  unfold decodeTableWord at h
  split at h
  · cases h
    exact ⟨_, ‹_›⟩
  · cases h

/-- Settles O25: the placed state is ready, and the bytes at its PC are the word's. -/
theorem placedWordRunsNext : Obligations.PlacedWordRunsNext := by
  intro s nbits w i hwf hmap hword
  obtain ⟨rest, hdecode⟩ := decode_of_decodeTableWord hword
  have hconfig : (s.withFetchWord nbits w).config = s.config := rfl
  rw [← hmap, ← hconfig, ← bytesAtPc_withFetchWord hwf] at hdecode
  exact stepRunsTheDecodedInstruction _ i rest (ready_makeReady _) hdecode

/-! ### The end of a call (R81, R87, R90) -/

/-- A pass that answers no next state ends the run. -/
theorem runCall_of_stopped {s : State} (h : ∀ t, step s ≠ .next t) (n : Nat) : runCall n s = s := by
  cases n with
  | zero => rfl
  | succ n =>
    unfold runCall
    cases hs : step s with
    | next t => exact absurd hs (h t)
    | fault f => rfl
    | refused r => rfl

/-- A run of passes can be cut in two. -/
theorem runCall_add (m n : Nat) (s : State) : runCall (m + n) s = runCall n (runCall m s) := by
  induction m generalizing s with
  | zero => rw [Nat.zero_add]; rfl
  | succ m ih =>
    by_cases hnext : ∃ t, step s = .next t
    · obtain ⟨t, ht⟩ := hnext
      rw [Nat.succ_add, runCall_succ_of_next ht, runCall_succ_of_next ht, ih]
    · have hstop := runCall_of_stopped (not_exists.1 hnext)
      rw [hstop, hstop, hstop]

theorem runCall_resetDone {s : State} (h : s.resetDone = true) (n : Nat) : (runCall n s).resetDone = true := by
  refine runCall_keeps (P := fun t => t.resetDone = true) (fun t u ht hstep => ?_) n h
  rcases step_next_iterates hstep with ⟨-, rfl⟩ | ⟨-, hit⟩
  · exact ht
  · exact hit.resetDone.trans ht

/-- As many passes as there is budget leave a state in which further ones do nothing: the latch is set or no budget is
left, and before the first reset no pass does anything. -/
theorem runCall_after_budget {n : Nat} {s : State} (hb : s.budget ≤ n) (k : Nat) :
    runCall k (runCall n s) = runCall n s := by
  cases hreset : s.resetDone with
  | false =>
    have hstop := runCall_of_stopped (s := s) (by simp [step_of_not_reset hreset])
    rw [hstop, hstop]
  | true =>
    cases hfault : (runCall n s).fault with
    | some f => exact runCall_of_latched hfault k
    | none =>
      have hbudget := budget_runCall_nonpos hreset hb hfault
      exact runCall_of_idle (step_of_no_budget (runCall_resetDone hreset n) hfault hbudget) k

/-- Settles O50: the passes beyond the first b0 start where these have ended the loop. -/
theorem loopEndsWithinItsBudget : Obligations.LoopEndsWithinItsBudget := by
  intro b0 s n hn
  obtain ⟨k, rfl⟩ := Nat.exists_eq_add_of_le (Int.toNat_le.2 hn)
  rw [runCall_add]
  exact runCall_after_budget (Int.self_le_toNat b0) k

/-- Settles O48: the latch the run leaves decides the status, and where it is empty b0 passes have used the budget. -/
theorem executeEndsExhaustedOrFaulted : Obligations.ExecuteEndsExhaustedOrFaulted := by
  intro b0 s hreset hfault
  refine ⟨_, execute_of_no_fault hreset hfault rfl, rfl, rfl, ?_⟩
  cases hend : (runCall b0.toNat (beginCall b0 s)).fault with
  | none =>
    have hpasses : (beginCall b0 s).budget ≤ b0.toNat := Int.self_le_toNat b0
    exact .inl ⟨statusOf_eq_exhausted.2 hend, rfl, budget_runCall_nonpos hreset hpasses hend⟩
  | some f => exact .inr ⟨f, by simp only [statusOf, hend], rfl⟩

end Sys2Proof.Machine
end

section
/-! PROOFS of 41_loads.md. The default opcode values read back each encoding; the loads' equations, with the register
and the flags that a load writes spelled out, are what the rules say. -/

namespace Sys2Proof

/-- R62: the 14 default values are distinct. -/
theorem OpcodeMap.mos6502_distinct : OpcodeMap.mos6502.Distinct := by decide

/-- Under the default opcode values the bytes of an instruction, and no more, decode to it. -/
theorem decode_encode_mos6502 (i : Instr) (hi : i.wf OpcodeMap.mos6502 = true) :
    decode OpcodeMap.mos6502 (encode OpcodeMap.mos6502 i) = .ok (i, []) := by
  simpa using decodeOfEncodeIsTheInstruction _ i [] OpcodeMap.mos6502_distinct hi

end Sys2Proof

namespace Sys2Proof.Machine

/-- Settles O12: each opcode byte with its operand is the encoding of its mode, and each mode loads A with its data. -/
theorem ldaLoadsTheAccumulator : Obligations.LdaLoadsTheAccumulator := by
  refine ⟨fun o => ⟨decode_encode_mos6502 (.ldaImm o) rfl, decode_encode_mos6502 (.ldaZp o) rfl,
    decode_encode_mos6502 (.ldaZpX o) rfl⟩, fun o s => ?_⟩
  rw [exec_ldaImm, exec_ldaZp, exec_ldaZpX, loadA_eq, loadA_eq, loadA_eq]
  exact ⟨rfl, rfl, rfl⟩

/-- Settles O13: each opcode byte with its operand is the encoding of its mode, and each mode loads X with its data. -/
theorem ldxLoadsIndexX : Obligations.LdxLoadsIndexX := by
  refine ⟨fun o => ⟨decode_encode_mos6502 (.ldxImm o) rfl, decode_encode_mos6502 (.ldxZp o) rfl⟩,
    fun o s => ?_⟩
  rw [exec_ldxImm, exec_ldxZp, loadX_eq, loadX_eq]
  exact ⟨rfl, rfl⟩

/-- Settles O14: each opcode byte with its operand is the encoding of its mode, and each mode loads Y with its data. -/
theorem ldyLoadsIndexY : Obligations.LdyLoadsIndexY := by
  refine ⟨fun o => ⟨decode_encode_mos6502 (.ldyImm o) rfl, decode_encode_mos6502 (.ldyZp o) rfl⟩,
    fun o s => ?_⟩
  rw [exec_ldyImm, exec_ldyZp, loadY_eq, loadY_eq]
  exact ⟨rfl, rfl⟩

end Sys2Proof.Machine
end

section
/-! PROOFS of 42_shift_logic.md. The shift's result and carry as arithmetic on the byte shifted; with them the
equations of LSR and ORA are what the rules say. -/

namespace Sys2Proof.Machine

/-! ### The shift as division by 2 (R120, R121) -/

theorem toNat_shiftRight_one (v : Byte) : (v >>> 1).toNat = v.toNat / 2 := by
  rw [BitVec.toNat_ushiftRight, Nat.shiftRight_one]

theorem getLsbD_zero_eq_decide (v : Byte) : v.getLsbD 0 = decide (v.toNat % 2 = 1) := by
  rw [← BitVec.testBit_toNat, Nat.testBit_zero]

/-! ### The instructions -/

/-- Settles O15: the opcode byte is the whole encoding, and the carry is the remainder of the halving. -/
theorem lsrAccumulatorShiftsRight : Obligations.LsrAccumulatorShiftsRight := by
  refine ⟨decode_encode_mos6502 .lsrAcc rfl, fun s => ⟨_, exec_lsrAcc s, toNat_shiftRight_one s.a, ?_⟩⟩
  rw [setShiftFlags_eq, getLsbD_zero_eq_decide]

/-- Settles O16: the byte read is halved by one byte write, which in canonical memory changes its own cell alone. -/
theorem lsrZeroPageShiftsTheByte : Obligations.LsrZeroPageShiftsTheByte := by
  refine ⟨fun zz => decode_encode_mos6502 (.lsrZp zz) rfl, fun zz s hwf => ?_⟩
  refine ⟨_, _, exec_lsrZp zz s, toNat_shiftRight_one _, fun a => memRead_setByte hwf (zext16 zz) a _, ?_⟩
  rw [setShiftFlags_eq, memWrite_eq, getLsbD_zero_eq_decide]

/-- Settles O17: each opcode byte with its operand is the encoding of its mode, and each mode loads A with the
disjunction of A and its data. -/
theorem oraOrsIntoTheAccumulator : Obligations.OraOrsIntoTheAccumulator := by
  refine ⟨fun o => ⟨decode_encode_mos6502 (.oraImm o) rfl, decode_encode_mos6502 (.oraZp o) rfl⟩,
    fun o s => ?_⟩
  rw [exec_oraImm, exec_oraZp, loadA_eq, loadA_eq]
  exact ⟨rfl, rfl⟩

end Sys2Proof.Machine
end

section
/-! PROOFS of 43_stack_control.md. PHA and JSR as one store and a move of SP each: run in a row they meet at the byte
below the old SP, and each by itself is what its rule says. -/

namespace Sys2Proof.Machine

/-! ### A JSR straight after a PHA (R140) -/

/-- Where SP is not 0 or the word write wraps, the JSR after a PHA completes: it finds SP one lower. -/
theorem wordWrite_ok_after_pha {s : State} (h : s.sp ≠ 0 ∨ s.config.wordWriteTop = .wrap) :
    (execResult s .pha).sp ≠ 0xFFFF ∨ (execResult s .pha).config.wordWriteTop = .wrap := by
  refine h.imp_left fun hsp (htop : s.sp - 1 = 0xFFFF) => hsp ?_
  bv_omega

/-- JSR's return address, counted from the PHA before it (R141, R142). -/
theorem return_addr_after_pha (s : State) : (execResult s .pha).pc + 2 = s.pc + 3 :=
  BitVec.add_assoc s.pc 1 2

/-- Settles O37: the PHA leaves SP one below, so that the word the JSR stores there has its high byte at the PHA's own
address. -/
theorem jsrOverwritesThePushedByte : Obligations.JsrOverwritesThePushedByte := by
  intro s t u target hwf hok hpha hjsr
  obtain rfl := eq_execResult_of_exec hpha
  obtain rfl := eq_execResult_of_exec hjsr
  have hokJsr := wordWrite_ok_after_pha hok
  have hsp : (execResult s .pha).sp = s.sp - 1 := rfl
  have hread := memRead_execResult_jsrAbs (execResult_keeps_wf hwf .pha) hokJsr target
  rw [return_addr_after_pha, hsp] at hread
  refine ⟨?_, ?_, ?_⟩
  · rw [hread, if_neg (by bv_omega), if_pos (by bv_omega), highByte_eq_setWidth]
  · rw [hread, if_pos rfl]
    rfl
  · rw [execResult_jsrAbs_of_ok hokJsr]
    change s.sp - 1 + 2 = s.sp + 1
    bv_omega

/-! ### The instructions -/

/-- Settles O18: the push is one byte write, which in canonical memory changes its own cell alone. -/
theorem phaPushesTheAccumulator : Obligations.PhaPushesTheAccumulator := by
  refine ⟨decode_encode_mos6502 .pha rfl, fun s hwf => ?_⟩
  exact ⟨_, exec_pha s, fun a => memRead_setByte hwf s.sp a s.a, rfl⟩

/-- JSR's encoding under the default opcode values: the target's low byte stands before its high byte (R62). -/
theorem encode_mos6502_jsrAbs (lo hi : Byte) :
    encode OpcodeMap.mos6502 (.jsrAbs (wordOf hi lo)) = [0x20, lo, hi] := by
  simp [encode, OpcodeMap.mos6502]

/-- Settles O19: a JSR's two endings have conditions that exclude each other; the one that completes stores its return
address by one word write. -/
theorem jsrCallsOrTakesTheAddressFault : Obligations.JsrCallsOrTakesTheAddressFault := by
  refine ⟨fun lo hi => ?_, fun target s hwf => ?_⟩
  · rw [← encode_mos6502_jsrAbs]
    exact decode_encode_mos6502 (.jsrAbs (wordOf hi lo)) rfl
  · rcases exec_jsrAbs_cases target s with ⟨hsp, htop, hraised⟩ | ⟨hok, hdone⟩
    · exact ⟨fun hok => absurd ⟨hsp, htop⟩ (wordWrite_ok_iff.1 hok), fun _ _ => hraised⟩
    · exact ⟨fun _ => ⟨_, hdone, fun a => read_write_word hwf s.sp a _ _, rfl⟩,
        fun hsp htop => absurd ⟨hsp, htop⟩ (wordWrite_ok_iff.1 hok)⟩

/-- Settles O20: the opcode byte is the whole encoding, and the opcode's fetch the whole work. -/
theorem nopOnlyFetchesItsOpcode : Obligations.NopOnlyFetchesItsOpcode :=
  ⟨decode_encode_mos6502 .nop rfl, exec_nop⟩

end Sys2Proof.Machine
end

section
/-! PROOFS of 60_exceptions.md. The bad address of a load, and the one pass that a budget of 1 starts. -/

namespace Sys2Proof.Machine

/-! ### A load outside the address space (R173) -/

section
variable {address : Int} {n : Nat}

theorem firstBadAddress_of_outside (h : address < 0 ∨ 0xFFFF < address) :
    firstBadAddress address n = some address :=
  if_pos h

theorem firstBadAddress_of_past_top (hlow : 0 ≤ address) (hhigh : address ≤ 0xFFFF) (hlast : 0x10000 < address + n) :
    firstBadAddress address n = some 0x10000 := by
  have hinside : ¬ (address < 0 ∨ 0xFFFF < address) := by omega
  rw [firstBadAddress, if_neg hinside, if_pos hlast]

theorem load_of_firstBadAddress {bytes : List Byte} {bad : Int}
    (h : firstBadAddress address bytes.length = some bad) (s : State) :
    load address bytes s = .error (.addressOutOfRange bad) := by
  rw [load, h]

end

/-- Settles O44: the bad address is the load's own where that lies outside, and else the first one past the top. -/
theorem loadOutOfRangeIsReported : Obligations.LoadOutOfRangeIsReported := by
  intro address bytes s
  refine ⟨fun houtside => ?_, fun hlow hhigh hlast => ?_⟩
  · exact load_of_firstBadAddress (firstBadAddress_of_outside houtside) s
  · exact load_of_firstBadAddress (firstBadAddress_of_past_top hlow hhigh (by omega)) s

/-! ### A call with a budget of 1 (R171) -/

theorem beginCall_ready {b0 : Int} {s : State} (hb : 0 < b0) (hr : s.resetDone = true) (hf : s.fault = none) :
    (beginCall b0 s).Ready :=
  ⟨hr, hf, hb⟩

/-- The call's counter and event list have no part in what stands at PC. -/
theorem instrAt_beginCall (b0 : Int) (s : State) : instrAt (beginCall b0 s) = instrAt s := rfl

/-- Settles O47: a budget of 1 is worth one pass of the loop, and its budget makes the state ready for it. -/
theorem executeOneRunsOneInstruction : Obligations.ExecuteOneRunsOneInstruction := by
  intro s hreset hfault
  obtain ⟨t, hexec, -⟩ := exec_iterates (instrAt s) (beginCall 1 s)
  have hstep : step (beginCall 1 s) = .next t := by
    rw [step_of_ready (beginCall_ready Int.one_pos hreset hfault), instrAt_beginCall, hexec]
  exact ⟨t, hexec, execute_of_no_fault hreset hfault (runCall_succ_of_next hstep 0)⟩

end Sys2Proof.Machine
end

section
/-! PROOFS of 70_reset_and_hazards.md. What a memory reads after a run of consecutive writes; a load inside the address
space is one such run. -/

namespace Sys2Proof.Machine

/-! ### A load inside the address space (R184) -/

/-- Reading after a run of writes to a canonical memory: its byte at each address of the run, everything else as
before. -/
theorem Memory.read_writeAll {m : Memory} (hm : m.wf = true) {a : Nat} {bytes : List Byte}
    (h : a + bytes.length ≤ 65536) (b : Nat) :
    (m.writeAll a bytes).read b =
      if a ≤ b ∧ b < a + bytes.length then bytes.getD (b - a) 0 else m.read b := by
  induction bytes generalizing m a with
  | nil =>
    have houtside : ¬ (a ≤ b ∧ b < a + 0) := by omega
    exact (if_neg houtside).symm
  | cons v rest ih =>
    rw [List.length_cons] at h ⊢
    rw [Memory.writeAll, ih (Memory.write_wf hm (by omega) v) (by omega), Memory.read_write hm]
    rcases Nat.lt_trichotomy b a with hlt | rfl | hgt
    · rw [if_neg (by omega), if_neg (by omega), if_neg (by omega)]
    · rw [if_neg (by omega), if_pos rfl, if_pos (by omega), Nat.sub_self, List.getD_cons_zero]
    · have hsub : b - a = b - (a + 1) + 1 := by omega
      rw [hsub, List.getD_cons_succ, if_neg (Nat.ne_of_gt hgt)]
      exact if_congr (by omega) rfl rfl

theorem load_of_inside {address : Nat} {bytes : List Byte} (haddr : address ≤ 0xFFFF)
    (hend : address + bytes.length ≤ 0x10000) (s : State) :
    load address bytes s = .ok (s.setMem (s.mem.writeAll address bytes)) := by
  have hnone : firstBadAddress address bytes.length = none := firstBadAddress_eq_none.2 (by omega)
  rw [load, hnone, Int.toNat_natCast]

/-- Settles O43: the load is one run of writes, which keeps the canonical form and changes its own addresses alone. -/
theorem loadWritesExactlyItsBytes : Obligations.LoadWritesExactlyItsBytes := by
  intro address bytes s hwf haddr hend
  exact ⟨_, load_of_inside haddr hend s, rfl, Memory.writeAll_wf hwf hend,
    fun a => Memory.read_writeAll hwf hend a.toNat⟩

end Sys2Proof.Machine
end
